-- ==== Sys2Proof/Word.lean ====
section
/-! DEFINITION. The word types of the PLL frequency planner (spec 00 R13, 10 R20 to R23). -/

namespace Sys2Proof

/-- One register of the bank, or ERR: 8 bits (10 R23, R36). -/
abbrev Byte := BitVec 8

/-- The oscillator-target code: 16 bits (00 R9). -/
abbrev Half := BitVec 16

/-- A command word, as written to CMD: 32 bits (10 R20, 30 R62). -/
abbrev Word := BitVec 32

/-- An argument, a result or a rate: 64 bits (10 R21, R22, R28). -/
abbrev DWord := BitVec 64

end Sys2Proof
end

