-- ==== Sys2Proof/Config.lean ====
section
/-! DEFINITION. The implementation parameters: the constants the source fixes (00 R9), the OPEN parameters as one
record of plain data (00 R10), and the model's free values, which are opaque constants with no body. -/

namespace Sys2Proof

namespace Config

/-- REF_CLK_HZ (00 R9). -/
def refClkHz : Nat := 19200000
/-- MIN_PLL_RATE_HZ (00 R9). -/
def minPllRateHz : Nat := 1000000000
/-- MAX_PLL_RATE_HZ (00 R9). -/
def maxPllRateHz : Nat := 2000000000
/-- SSC_FREQ_HZ (00 R9). -/
def sscFreqHz : Nat := 31500
/-- SSC_OFFSET_PPM (00 R9). -/
def sscOffsetPpm : Nat := 5000
/-- SSC_ADJ_PER (00 R9): a constant that no formula uses and no register receives (41 R109). -/
def sscAdjPer : Nat := 2
/-- LOCK_POLL_ATTEMPTS (00 R9). -/
def lockPollAttempts : Nat := 15
/-- LOCK_POLL_DELAY_US (00 R9). -/
def lockPollDelayUs : Rat := 1000
/-- SYSCTRL_SETTLE1_US (00 R9). -/
def sysctrlSettle1Us : Rat := 5
/-- SYSCTRL_SETTLE2_US (00 R9). -/
def sysctrlSettle2Us : Rat := 50
/-- GPDIV_PARENTS (00 R9): the parents ÷1, ÷2, ÷4, ÷8, ÷16 and ÷32. -/
def gpdivParents : Nat := 6
/-- MINT_BIAS (00 R9). -/
def mintBias : Nat := 32
/-- SSC_PEAK_SCALE (00 R9). -/
def sscPeakScale : Nat := 2 ^ 17
/-- SSC_STEP_SCALE (00 R9). -/
def sscStepScale : Nat := 2 ^ 10
/-- SSC_FRAC_SCALE (00 R9). -/
def sscFracScale : Nat := 2 ^ 17
/-- The first rate outside the exact domain of the SSC formulas (41 R107). -/
def sscExactLimit : Nat := 5404319539200000

/-- SSC_MODE is center-spread (00 R9); no formula of the source uses it (41 R109). -/
inductive SscMode where
  | centerSpread
  | downSpread
  deriving DecidableEq, Repr

/-- SSC_MODE (00 R9). -/
def sscMode : SscMode := .centerSpread

end Config

/-- The named registers of the bank (10 R36). -/
inductive RegName where
  | pllGlobal | slewCtrl | hsfreq | oscTargetLo | oscTargetHi | inputDivOvr | loopDivLo | loopDivHi
  | inputLoopRatio | cpGain | gmpCtrl | anaTestCtrl | fsmOvrCtrl | phaseErrCtrl | lockFilter
  | proDlyRelock | lockDetMode
  | vcoCntrl | cpBias | pllCntrl | pixdiv | gpdivReg | sysCtrl | pwrupCtrl | lockStatus | sscGateReg
  | ssc (n : Fin 13)
  deriving DecidableEq, Repr

/-- A field descriptor `(reg, lsb, width)` (30 R67). -/
structure FieldDesc where
  reg : RegName
  lsb : Nat
  width : Nat
  deriving DecidableEq, Repr

/-- The named fields of 10 R38. -/
inductive FieldName where
  | pllEn | slew | hsfreq | oscLo | oscHi | loopLo | loopHi | fsmOvr | vcoRange | cpBias | subrange | gpdiv
  | pixdiv
  /-- The reserved top bit `PIXDIV[7]`, which every field write preserves. -/
  | pixdivTop
  | running | ovrEn | ovr | clksel | sscGate | lock
  deriving DecidableEq, Repr

/-- One band `(lo, code)` of HSFREQ_TABLE or SUBRANGE_TABLE (40 R83, 42 R122): `lo` in MHz. -/
structure Band where
  lo : Nat
  code : Byte
  deriving DecidableEq, Repr, Inhabited

/-- One pair of an `SR_*` list (10 R39): the field's place in the register its step names, and the fixed value. -/
structure FixedWrite where
  lsb : Nat
  width : Nat
  value : Byte
  deriving DecidableEq, Repr, Inhabited

/-- The six values of an SscPlan that SSC_BYTE_MAP may name (41 R110). -/
inductive SscSource where
  | peak | step | mint | fracDen | fracQuot | fracRem
  deriving DecidableEq, Repr, Inhabited

/-- One entry `(fd, src, shift)` of SSC_BYTE_MAP (41 R110); `fd` lies in register `SSC_n`. -/
structure SscEntry where
  n : Fin 13
  lsb : Nat
  width : Nat
  src : SscSource
  shift : Nat
  deriving DecidableEq, Repr, Inhabited

/-- One row of POSTDIV_TABLE (42 R121): VCO range code and charge-pump bias code. -/
structure PostdivRow where
  rc : BitVec 2
  bc : BitVec 1
  deriving DecidableEq, Repr, Inhabited

/-- The register that holds FD_SUBRANGE: an OPEN choice (10 R38, 90 C16). -/
inductive SubrangeReg where
  | vcoCntrl | cpBias
  deriving DecidableEq, Repr, Inhabited

/-- The OPEN parameters (00 R10), as plain data. Where 10 R38 fixes a part of a field descriptor, only the
part marked OPEN stands here. An offset is one of the 1024 by its type (10 R36, 20 R49). -/
structure Params where
  /-- REG_OFFSET, indexed by `RegName.index`. -/
  offsets : Vector (Fin 1024) 39
  lsbPllEn : Nat
  lsbSlew : Nat
  lsbLoopLo : Nat
  lsbLoopHi : Nat
  lsbFsmOvr : Nat
  lsbCpBias : Nat
  subrangeReg : SubrangeReg
  lsbSubrange : Nat
  lsbGpdiv : Nat
  lsbRunning : Nat
  lsbOvrEn : Nat
  lsbOvr : Nat
  lsbClksel : Nat
  widthClksel : Nat
  lsbSscGate : Nat
  lsbLock : Nat
  /-- HSFREQ_TABLE (40 R83). -/
  hsfreqTable : List Band
  /-- OSC_CODE_A (40 R86). -/
  oscCodeA : Half
  /-- OSC_CODE_B (40 R86). -/
  oscCodeB : Half
  /-- SR_SLEW_VAL, one bit (10 R39). -/
  srSlewVal : BitVec 1
  srInputDivOvr : List FixedWrite
  srInputLoopRatio : List FixedWrite
  srCpGain : List FixedWrite
  srGmp : List FixedWrite
  srAnaTest : List FixedWrite
  srPhaseErr : List FixedWrite
  srLockFilter : List FixedWrite
  srProDlyRelock : List FixedWrite
  srLockDetMode : List FixedWrite
  /-- SR_DELAY_US: entry k - 1 is the delay after step Sk, 0 for none (43 R153). -/
  srDelayUs : Vector Rat 16
  /-- SSC_BYTE_MAP (41 R110). -/
  sscByteMap : List SscEntry
  /-- SSC_ENABLED (43 R151). -/
  sscEnabled : Bool
  /-- POSTDIV_TABLE (42 R121). -/
  postdivTable : Vector PostdivRow 6
  /-- SUBRANGE_TABLE (42 R122). -/
  subrangeTable : List Band
  /-- SYSCTRL_V1 (44 R165). -/
  sysctrlV1 : Byte
  /-- SYSCTRL_V2 (44 R165). -/
  sysctrlV2 : Byte
  /-- T_PREP_OVR, in microseconds (44 R165). -/
  tPrepOvr : Rat
  /-- T_PREP_CLKSEL, in microseconds (44 R165). -/
  tPrepClksel : Rat
  /-- T_UNP_GATE, in microseconds (44 R168). -/
  tUnpGate : Rat
  /-- T_UNP_CLKSEL, in microseconds (44 R168). -/
  tUnpClksel : Rat
  /-- T_UNP_OVR, in microseconds (44 R168). -/
  tUnpOvr : Rat
  /-- HOST_AGENTS (20 R57). -/
  hostAgents : Nat
  deriving DecidableEq, Repr, Inhabited

/-- The outcome of construction, a draw among three (70 R221). -/
inductive ConstructDraw where
  | success
  | allocationFailure
  | deviceAbsent
  deriving DecidableEq, Repr, Inhabited

/-- The hardware's own OPEN parameters: nothing in the spec gives them (00 R11), so nothing in Lean can.
Free value, log entry 2. -/
opaque Config.params : Params

/-- `Config.bankDraw 0` is BANK_INIT (70 R220) and `Config.bankDraw n` what the n-th power collapse leaves in the
bank (45 R185): offsets with their bytes, an offset not listed holding 0. Free value, log entry 3. -/
opaque Config.bankDraw : Nat → List (Nat × Byte)

/-- The n-th free answer to a volatile read or to the restore draw (20 R46, 45 R183). Free value, log entry 4. -/
opaque Config.freeBit : Nat → Bool

/-- The n-th free outcome of construction (70 R221). Free value, log entry 4. -/
opaque Config.freeConstruct : Nat → ConstructDraw

end Sys2Proof
end

