-- ==== Sys2Proof/Machine/Fields.lean ====
section
/-! DEFINITION. Register offsets, field descriptors and masks (10 R36, R38; 30 R67). -/

namespace Sys2Proof

/-- The place of a register's offset in `Params.offsets`. -/
def RegName.index : RegName → Fin 39
  | .pllGlobal => 0 | .slewCtrl => 1 | .hsfreq => 2 | .oscTargetLo => 3 | .oscTargetHi => 4
  | .inputDivOvr => 5 | .loopDivLo => 6 | .loopDivHi => 7 | .inputLoopRatio => 8 | .cpGain => 9
  | .gmpCtrl => 10 | .anaTestCtrl => 11 | .fsmOvrCtrl => 12 | .phaseErrCtrl => 13 | .lockFilter => 14
  | .proDlyRelock => 15 | .lockDetMode => 16 | .vcoCntrl => 17 | .cpBias => 18 | .pllCntrl => 19
  | .pixdiv => 20 | .gpdivReg => 21 | .sysCtrl => 22 | .pwrupCtrl => 23 | .lockStatus => 24
  | .sscGateReg => 25
  | .ssc n => ⟨26 + n.val, by omega⟩

/-- REG_OFFSET (10 R36). -/
def Params.offset (p : Params) (r : RegName) : Nat :=
  (p.offsets[r.index.val]).val

/-- REG_OFFSET from a list of numbers: none where a number lies outside 0x000 .. 0x3FF or a register has no offset
(20 R49: such a configuration is refused whole, so it never becomes a `Params`). -/
def offsetsOfList (l : List Nat) : Option (Vector (Fin 1024) 39) :=
  if h : l.length = 39 ∧ ∀ x ∈ l, x < 1024 then
    some (Vector.ofFn (fun i => ⟨l[i.val]'(by omega), h.2 _ (List.getElem_mem _)⟩))
  else none

/-- The register that holds FD_SUBRANGE (10 R38, 90 C16). -/
def SubrangeReg.reg : SubrangeReg → RegName
  | .vcoCntrl => .vcoCntrl
  | .cpBias => .cpBias

/-- The named field descriptors (10 R38). FD_VCO_RANGE is bits 5:4, so that 3 reads as the pattern 0x30. -/
def Params.fd (p : Params) : FieldName → FieldDesc
  | .pllEn => ⟨.pllGlobal, p.lsbPllEn, 1⟩
  | .slew => ⟨.slewCtrl, p.lsbSlew, 1⟩
  | .hsfreq => ⟨.hsfreq, 0, 8⟩
  | .oscLo => ⟨.oscTargetLo, 0, 8⟩
  | .oscHi => ⟨.oscTargetHi, 0, 8⟩
  | .loopLo => ⟨.loopDivLo, p.lsbLoopLo, 6⟩
  | .loopHi => ⟨.loopDivHi, p.lsbLoopHi, 6⟩
  | .fsmOvr => ⟨.fsmOvrCtrl, p.lsbFsmOvr, 1⟩
  | .vcoRange => ⟨.vcoCntrl, 4, 2⟩
  | .cpBias => ⟨.cpBias, p.lsbCpBias, 1⟩
  | .subrange => ⟨p.subrangeReg.reg, p.lsbSubrange, 2⟩
  | .gpdiv => ⟨.gpdivReg, p.lsbGpdiv, 3⟩
  | .pixdiv => ⟨.pixdiv, 0, 7⟩
  | .pixdivTop => ⟨.pixdiv, 7, 1⟩
  | .running => ⟨.sysCtrl, p.lsbRunning, 1⟩
  | .ovrEn => ⟨.pwrupCtrl, p.lsbOvrEn, 1⟩
  | .ovr => ⟨.pwrupCtrl, p.lsbOvr, 1⟩
  | .clksel => ⟨.pllCntrl, p.lsbClksel, p.widthClksel⟩
  | .sscGate => ⟨.sscGateReg, p.lsbSscGate, 1⟩
  | .lock => ⟨.lockStatus, p.lsbLock, 1⟩

/-- Every named field. -/
def FieldName.all : List FieldName :=
  [.pllEn, .slew, .hsfreq, .oscLo, .oscHi, .loopLo, .loopHi, .fsmOvr, .vcoRange, .cpBias, .subrange, .gpdiv,
    .pixdiv, .pixdivTop, .running, .ovrEn, .ovr, .clksel, .sscGate, .lock]

/-- The field's mask `((1 << width) - 1) << lsb` (30 R67). -/
def FieldDesc.mask (f : FieldDesc) : Byte :=
  BitVec.ofNat 8 ((2 ^ f.width - 1) <<< f.lsb)

/-- A value in the field's place: `(trunc_width(v) << lsb) & m` (20 R47). -/
def FieldDesc.place (f : FieldDesc) (v : Nat) : Byte :=
  BitVec.ofNat 8 ((v % 2 ^ f.width) <<< f.lsb) &&& f.mask

/-- The field's value in a byte: `(b & m) >> lsb` (20 R47). -/
def FieldDesc.extract (f : FieldDesc) (b : Byte) : Nat :=
  ((b &&& f.mask) >>> f.lsb).toNat

/-- The byte with the field replaced: `(b & ~m) | field` (20 R47). -/
def FieldDesc.merge (f : FieldDesc) (v : Nat) (b : Byte) : Byte :=
  (b &&& ~~~f.mask) ||| f.place v

/-- The field of a pair of an `SR_*` list, in its step's register (10 R39). -/
def FixedWrite.fd (r : RegName) (w : FixedWrite) : FieldDesc := ⟨r, w.lsb, w.width⟩

/-- The field of an entry of SSC_BYTE_MAP (41 R110). -/
def SscEntry.fd (e : SscEntry) : FieldDesc := ⟨.ssc e.n, e.lsb, e.width⟩

/-- The `SR_*` lists with the registers their steps name (10 R36, R39). -/
def Params.srLists (p : Params) : List (RegName × List FixedWrite) :=
  [(.inputDivOvr, p.srInputDivOvr), (.inputLoopRatio, p.srInputLoopRatio), (.cpGain, p.srCpGain),
    (.gmpCtrl, p.srGmp), (.anaTestCtrl, p.srAnaTest), (.phaseErrCtrl, p.srPhaseErr),
    (.lockFilter, p.srLockFilter), (.proDlyRelock, p.srProDlyRelock), (.lockDetMode, p.srLockDetMode)]

/-- The fields the OPEN lists place: those of the `SR_*` lists and of SSC_BYTE_MAP. -/
def Params.listFields (p : Params) : List FieldDesc :=
  (p.srLists.flatMap (fun rl => rl.2.map (FixedWrite.fd rl.1))) ++ p.sscByteMap.map SscEntry.fd

end Sys2Proof
end

