-- ==== Sys2Proof/Machine/Checks.lean ====
section
/-! DEFINITION. The checks a well-formed configuration passes, one by one (60 R203). -/

namespace Sys2Proof

/-- A descriptor within one byte (30 R67). -/
def FieldDesc.inByte (f : FieldDesc) : Bool :=
  decide (f.lsb ≤ 7) && decide (1 ≤ f.width) && decide (f.width ≤ 8) && decide (f.lsb + f.width ≤ 8)

/-- Two fields that share no bit of the bank (10 R36, R38): other offsets, or disjoint masks. -/
def Params.apart (p : Params) (f g : FieldDesc) : Bool :=
  decide (p.offset f.reg ≠ p.offset g.reg) || decide (f.mask &&& g.mask = 0)

/-- Every descriptor meets 30 R67. -/
def Params.fieldsInByte (p : Params) : Bool :=
  FieldName.all.all (fun a => (p.fd a).inByte) && p.listFields.all FieldDesc.inByte

/-- Named fields in one register, or in registers that share an offset, do not overlap (10 R36, R38). -/
def Params.namedApart (p : Params) : Bool :=
  FieldName.all.all (fun a => FieldName.all.all (fun b => decide (a = b) || p.apart (p.fd a) (p.fd b)))

/-- The fields of the OPEN lists overlap no named field, and one another only where they are the same field. -/
def Params.listsApart (p : Params) : Bool :=
  p.listFields.all (fun f =>
    FieldName.all.all (fun a => p.apart f (p.fd a)) &&
    p.listFields.all (fun g => decide (f = g) || p.apart f g))

/-- The lower bounds of a band table strictly increase. -/
def bandsRise (t : List Band) : Bool :=
  decide (t.Pairwise (fun a b => a.lo < b.lo))

/-- The band [2400, 2450) with code 0x47 stands in the table (40 R83, condition 3). -/
def hasWorkedBand : List Band → Bool
  | a :: b :: rest =>
    (decide (a.lo = 2400) && decide (b.lo = 2450) && decide (a.code = 0x47)) || hasWorkedBand (b :: rest)
  | _ => false

/-- HSFREQ_TABLE meets 40 R83. Of its condition 5, unequal widths follow from conditions 2 and 3, and "non-linear"
codes, for which the spec gives no test, are not tested: DESIGN CHOICE, log entry 27. -/
def Params.hsfreqOk (p : Params) : Bool :=
  bandsRise p.hsfreqTable && decide (p.hsfreqTable.head?.map Band.lo = some 80) &&
  hasWorkedBand p.hsfreqTable && p.hsfreqTable.any (fun b => decide (b.lo = 2250))

/-- SUBRANGE_TABLE meets 42 R122. -/
def Params.subrangeOk (p : Params) : Bool :=
  decide (p.subrangeTable.length = 16) && bandsRise p.subrangeTable &&
  p.subrangeTable.all (fun b => decide (b.code = 1) || decide (b.code = 2) || decide (b.code = 3))

/-- SSC_BYTE_MAP has 13 entries and names exactly five sources (41 R110). -/
def Params.sscMapOk (p : Params) : Bool :=
  decide (p.sscByteMap.length = 13) && decide ((p.sscByteMap.map SscEntry.src).eraseDups.length = 5)

/-- POSTDIV_TABLE rows 1 and 4 are (3, 0) (42 R121). -/
def Params.postdivOk (p : Params) : Bool :=
  decide (p.postdivTable[1] = ⟨3, 0⟩) && decide (p.postdivTable[4] = ⟨3, 0⟩)

/-- SR_PHASE_ERR has two pairs, every other `SR_*` list at least one (10 R39). -/
def Params.srOk (p : Params) : Bool :=
  decide (p.srPhaseErr.length = 2) && p.srLists.all (fun rl => decide (1 ≤ rl.2.length))

/-- Every `T_*` delay is positive (60 R203); no per-step delay is negative (43 R153). -/
def Params.delaysOk (p : Params) : Bool :=
  decide (0 < p.tPrepOvr) && decide (0 < p.tPrepClksel) && decide (0 < p.tUnpGate) &&
  decide (0 < p.tUnpClksel) && decide (0 < p.tUnpOvr) && p.srDelayUs.toList.all (fun d => decide (0 ≤ d))

end Sys2Proof
end

