-- ==== Sys2Proof/Syntax.lean ====
section
/-! DEFINITION. The commands of the block: one constructor per row of spec/opcode_table.json (30 R64). -/

namespace Sys2Proof

/-- The twenty commands. A command word carries no immediate (30 R64): the operands stand in ARG0 and ARG1
of the issuing agent, so no constructor has a field. -/
inductive Instr where
  /-- `MULT_X100`, op 0x01: the multiplier-times-100 helper (40 R87). -/
  | multX100
  /-- `GCD`, op 0x02: the greatest common divisor (40 R88). -/
  | gcd
  /-- `PLAN`, op 0x03: a FrequencyPlan (40 R93). -/
  | plan
  /-- `SSC_COMPUTE`, op 0x04: an SscPlan (41 R111). -/
  | sscCompute
  /-- `ROUND_RATE`, op 0x10: clamp a rate (43 R150). -/
  | roundRate
  /-- `SET_RATE`, op 0x11: the rate transaction (43 R155). -/
  | setRate
  /-- `RECALC_RATE`, op 0x12: report the VCO rate (43 R157). -/
  | recalcRate
  /-- `PREPARE`, op 0x20: power on and lock (44 R165). -/
  | prepare
  /-- `UNPREPARE`, op 0x21: power off (44 R168). -/
  | unprepare
  /-- `ENABLE`, op 0x22: open the SSC gate (44 R169). -/
  | enable
  /-- `IS_ENABLED`, op 0x23: poll for lock (44 R163). -/
  | isEnabled
  /-- `POSTDIV_SET`, op 0x30: select a post-divider parent (42 R126). -/
  | postdivSet
  /-- `POSTDIV_GET`, op 0x31: report the post-divider parent (42 R127). -/
  | postdivGet
  /-- `GPDIV_SET`, op 0x32: write the GP-divider select (42 R130). -/
  | gpdivSet
  /-- `GPDIV_GET`, op 0x33: read the GP-divider select (42 R131). -/
  | gpdivGet
  /-- `PIXDIV_ROUND_RATE`, op 0x34 (42 R134). -/
  | pixdivRoundRate
  /-- `PIXDIV_SET_RATE`, op 0x35 (42 R135). -/
  | pixdivSetRate
  /-- `PIXDIV_RECALC_RATE`, op 0x36 (42 R136). -/
  | pixdivRecalcRate
  /-- `SAVE`, op 0x40: capture the state cache (45 R181). -/
  | save
  /-- `RESTORE`, op 0x41: re-establish the saved state (45 R182). -/
  | restore
  deriving DecidableEq, Repr

/-- The operations that have no encoding and that a decoder refuses by name (30 R63, 00 R6, R7). -/
inductive OutsideOp where
  /-- The mux `determine_rate(request)`, which belongs to the clock-tree framework (00 R7). -/
  | determineRate
  /-- The display-panel initialization scripts (00 R6). -/
  | panelScripts
  /-- The DSI PHY timing calculator (00 R6). -/
  | phyTimingCalculator
  deriving DecidableEq, Repr

end Sys2Proof
end

