-- ==== Sys2Proof/WellFormed.lean ====
section
/-! DEFINITION. Well-formedness: of a command as syntax, and of a configuration (60 R203). -/

namespace Sys2Proof

/-- Every command is well formed: a command word has no operand field that could be out of range (30 R64). -/
def Instr.wellFormed : Instr → Bool := fun _ => true

/-- A well-formed configuration (60 R203). -/
def Params.wellFormed (p : Params) : Bool :=
  p.fieldsInByte && p.namedApart && p.listsApart && p.hsfreqOk && p.subrangeOk && p.sscMapOk &&
  p.postdivOk && p.srOk && p.delaysOk && decide (1 ≤ p.hostAgents)

end Sys2Proof
end

