-- ==== Sys2Proof/Decode.lean ====
section
/-! DEFINITION. Decoding a command word, total on all 32-bit words and rejecting by name, and the encoder
(30 R62, R64, R65). -/

namespace Sys2Proof

/-- Why a word is no command (30 R65). Both complete with IllegalCommand. -/
inductive DecodeError where
  /-- Bits 31:8 are not all zero. -/
  | reservedBits
  /-- Bits 7:0 hold no opcode of 30 R64. -/
  | reservedOpcode (op : Byte)
  deriving DecidableEq, Repr

/-- The opcode field, bits 7:0 (30 R62). -/
def opField (w : Word) : Byte := w.extractLsb' 0 8

/-- The reserved field, bits 31:8 (30 R62). -/
def rsvField (w : Word) : BitVec 24 := w.extractLsb' 8 24

/-- The opcode table of 30 R64. -/
def opcode : Instr → Byte
  | .multX100 => 0x01
  | .gcd => 0x02
  | .plan => 0x03
  | .sscCompute => 0x04
  | .roundRate => 0x10
  | .setRate => 0x11
  | .recalcRate => 0x12
  | .prepare => 0x20
  | .unprepare => 0x21
  | .enable => 0x22
  | .isEnabled => 0x23
  | .postdivSet => 0x30
  | .postdivGet => 0x31
  | .gpdivSet => 0x32
  | .gpdivGet => 0x33
  | .pixdivRoundRate => 0x34
  | .pixdivSetRate => 0x35
  | .pixdivRecalcRate => 0x36
  | .save => 0x40
  | .restore => 0x41

/-- The command an opcode stands for. -/
def decodeOp (op : Byte) : Except DecodeError Instr :=
  match op.toNat with
  | 0x01 => .ok .multX100
  | 0x02 => .ok .gcd
  | 0x03 => .ok .plan
  | 0x04 => .ok .sscCompute
  | 0x10 => .ok .roundRate
  | 0x11 => .ok .setRate
  | 0x12 => .ok .recalcRate
  | 0x20 => .ok .prepare
  | 0x21 => .ok .unprepare
  | 0x22 => .ok .enable
  | 0x23 => .ok .isEnabled
  | 0x30 => .ok .postdivSet
  | 0x31 => .ok .postdivGet
  | 0x32 => .ok .gpdivSet
  | 0x33 => .ok .gpdivGet
  | 0x34 => .ok .pixdivRoundRate
  | 0x35 => .ok .pixdivSetRate
  | 0x36 => .ok .pixdivRecalcRate
  | 0x40 => .ok .save
  | 0x41 => .ok .restore
  | _ => .error (.reservedOpcode op)

/-- The command a word stands for (30 R62, R65). -/
def decode (w : Word) : Except DecodeError Instr :=
  if rsvField w = 0 then decodeOp (opField w) else .error .reservedBits

/-- The word of a command: its opcode under 24 zero bits (30 R62). -/
def encode (i : Instr) : Word := (opcode i).setWidth 32

/-- What the decoder reads from a word given as the opcode table numbers its bits. -/
def decodeTableWord (nbits w : Nat) : Option Instr :=
  match decode (BitVec.ofNat 32 (w % 2 ^ nbits)) with
  | .ok i => some i
  | .error _ => none

end Sys2Proof
end

