-- ==== Sys2Proof/Machine/Sparse.lean ====
section
/-! DEFINITION. Sparse maps as sorted lists of (key, value) pairs in one canonical form: the register bank, the
command interfaces, the host programs and the in-progress set are held so (plain data, equal maps are equal lists). -/

namespace Sys2Proof.Machine

/-- The value listed for key `k`, if one is. -/
def Sparse.find? {α : Type} : List (Nat × α) → Nat → Option α
  | [], _ => none
  | (j, v) :: rest, k => if j = k then some v else Sparse.find? rest k

/-- List `v` for key `k`, keeping the keys rising. -/
def Sparse.insert {α : Type} (k : Nat) (v : α) : List (Nat × α) → List (Nat × α)
  | [] => [(k, v)]
  | (j, w) :: rest =>
    if k < j then (k, v) :: (j, w) :: rest
    else if k = j then (k, v) :: rest
    else (j, w) :: Sparse.insert k v rest

/-- List nothing for key `k`. -/
def Sparse.erase {α : Type} (k : Nat) (l : List (Nat × α)) : List (Nat × α) :=
  l.filter (fun e => e.1 != k)

/-- What key `k` reads as, an unlisted key reading as `d k`. -/
def Sparse.get {α : Type} (d : Nat → α) (l : List (Nat × α)) (k : Nat) : α :=
  (Sparse.find? l k).getD (d k)

/-- Make key `k` read as `v`: an entry equal to what an unlisted key reads as is not listed. -/
def Sparse.set {α : Type} [DecidableEq α] (d : Nat → α) (k : Nat) (v : α) (l : List (Nat × α)) :
    List (Nat × α) :=
  if v = d k then Sparse.erase k l else Sparse.insert k v l

/-- The keys rise strictly. -/
def Sparse.sorted {α : Type} (l : List (Nat × α)) : Bool :=
  decide (l.Pairwise (fun a b => a.1 < b.1))

/-- The canonical form: keys strictly rising, no entry equal to what an unlisted key reads as. -/
def Sparse.wf {α : Type} [DecidableEq α] (d : Nat → α) (l : List (Nat × α)) : Bool :=
  Sparse.sorted l && l.all (fun e => decide (e.2 ≠ d e.1))

end Sys2Proof.Machine
end

