-- ==== Sys2Proof/Machine/State.lean ====
section
/-! DEFINITION. The state of the block as plain data (10 R18 to R42), its fault and refusal reasons
(60 R201, R202), and the state after reset (10 R42). -/

namespace Sys2Proof.Machine

/-- The fault reasons, a closed list (60 R201). -/
inductive Fault where
  /-- A host read of RES[i] while its valid bit is 0 (10 R22). Raised by a host's read. Safe. -/
  | resultUnwritten
  /-- A start that overlaps a command of another agent against 20 R58. Raised by `start`. Safe. -/
  | unserialized
  /-- RESTORE while `cache_status` is EMPTY (45 R182). Raised by RESTORE. Safe. -/
  | cacheNotSaved
  deriving DecidableEq, Repr

/-- The refusal reasons, a closed list (60 R202). -/
inductive Refusal where
  /-- An instruction whose arm has no meaning yet. Raised by `exec` alone. Safe. -/
  | notModelled (mnemonic : String)
  /-- A rate outside the exact domain of the SSC formulas (41 R107). Raised by SSC_COMPUTE, and by SET_RATE and
  RESTORE while SSC_ENABLED. Safe. -/
  | sscOutOfExactDomain
  /-- Construction with a configuration that is not well formed (60 R203). Raised by construction. Safe. -/
  | illFormedConfiguration
  /-- An operation outside the block (30 R63). Raised by the assembler. Safe. -/
  | outsideBlock (op : OutsideOp)
  deriving DecidableEq, Repr

/-- The error codes of ERR (30 R66). -/
inductive ErrCode where
  | ok | lockTimeout | invalidDividerIndex | allocationFailure | deviceAbsent | illegalCommand
  deriving DecidableEq, Repr

/-- The diagnostic log events (60 R213). -/
inductive LogKind where
  /-- The post-divider decode met a pattern that no table row holds (42 R124). -/
  | unmappedPostDivIndex (rc bc : Nat)
  deriving DecidableEq, Repr

/-- The events of the history (10 R35). A delay is in microseconds. -/
inductive Event where
  | read (off : Nat) (v : Byte)
  | write (off : Nat) (v : Byte)
  | delay (us : Rat)
  | barrier
  | log (kind : LogKind)
  | cmdStart (agent : Nat) (op : Byte)
  | cmdEnd (agent : Nat) (op : Byte) (err : ErrCode)
  | powerCollapse
  deriving DecidableEq, Repr

/-- The command interface of one agent (10 R20 to R23). CMD is write-only and stores nothing. -/
structure Iface where
  arg0 : DWord
  arg1 : DWord
  res : Vector DWord 6
  resv : Vector Bool 6
  err : Byte
  deriving DecidableEq, Repr

/-- A command interface at construction (10 R42). RES is unspecified there: log entry 5. -/
def Iface.reset : Iface where
  arg0 := 0
  arg1 := 0
  res := #v[0, 0, 0, 0, 0, 0]
  resv := #v[false, false, false, false, false, false]
  err := 0

/-- The state cache (10 R30). -/
structure Cache where
  vcoCntrl : Byte
  cpBias : Byte
  pllCntrl : Byte
  pixdiv : Byte
  rate : DWord
  deriving DecidableEq, Repr

/-- `cache_status` (10 R31). -/
inductive CacheStatus where
  | empty | valid | consumed
  deriving DecidableEq, Repr

/-- A mux lock (10 R32). -/
inductive Lock where
  | free
  | held (agent : Nat)
  deriving DecidableEq, Repr

/-- ARG0 or ARG1. -/
inductive ArgReg where
  | arg0 | arg1
  deriving DecidableEq, Repr

/-- What a host may do at its command interface (70 R231, 30 R68, R69). -/
inductive HostOp where
  /-- Write an argument register. -/
  | writeArg (k : ArgReg) (v : DWord)
  /-- Read RES[n] and write the value to an argument register: the operand `RESn` of 30 R69. -/
  | copyRes (n : Fin 6) (k : ArgReg)
  /-- Write CMD: issue one command. -/
  | writeCmd (w : Word)
  /-- Write CMD only if ERR is OK: the condition of PREPARE_ENABLE, which the host evaluates (30 R70). -/
  | writeCmdIfOk (w : Word)
  /-- Read RES[n]. -/
  | readRes (n : Fin 6)
  /-- Read ERR. -/
  | readErr
  /-- Read CMD. -/
  | readCmd
  deriving DecidableEq, Repr

/-- One host agent: the rest of its program (70 R232) and the values it has read, oldest first. -/
structure HostSide where
  program : List HostOp
  reads : List DWord
  deriving DecidableEq, Repr

/-- A host with nothing left to do and nothing read. -/
def HostSide.idle : HostSide := ⟨[], []⟩

/-- Who moves next (20 R57, 45 R185, 70 R221). -/
inductive Turn where
  /-- A host agent takes its next step. -/
  | agent (a : Nat)
  /-- The environment event `PowerCollapse`. -/
  | powerCollapse
  /-- The construction of the instance. -/
  | construct
  deriving DecidableEq, Repr

/-- The environment: the answers it will give, in order, and the counters of the free answers it gives where none
is listed (20 R46, 45 R183, R185, 70 R221). The model's own, log entry 4. -/
structure Env where
  lock : List Bool
  running : List Bool
  restore : List Bool
  construct : List ConstructDraw
  images : List (List Host.Cell)
  /-- Free answers given so far. -/
  drawn : Nat
  /-- Free images of the bank given so far, the launch image among them. -/
  imaged : Nat
  deriving DecidableEq, Repr

/-- The whole state (10 R18), with the model's own fields last. -/
structure State where
  /-- The command interfaces; an agent not listed has `Iface.reset` (10 R18.1, 60 R212). -/
  ifaces : List (Nat × Iface)
  /-- 10 R26. -/
  poweredOn : Bool
  /-- 10 R27. -/
  locked : Bool
  /-- 10 R28. -/
  currentVcoRate : DWord
  /-- 10 R30. -/
  cache : Cache
  /-- 10 R31. -/
  cacheStatus : CacheStatus
  /-- 10 R32. -/
  postdivLock : Lock
  /-- 10 R32. -/
  gpdivLock : Lock
  /-- 10 R34; `none` is NONE. -/
  fault : Option Fault
  /-- 10 R34; the mark is set when a reason stands here. -/
  refused : Option Refusal
  /-- 10 R33. -/
  constructed : Bool
  /-- Construction has drawn a failure (70 R221). The model's own, log entry 25. -/
  constructFailed : Bool
  /-- 10 R35, oldest first. -/
  history : List Event
  /-- The in-progress set: agents and the words they issued (20 R57). -/
  inProgress : List (Nat × Word)
  /-- The register bank: the offsets whose byte differs from `image` (10 R40). -/
  bank : List Host.Cell
  /-- What an unlisted offset of the bank reads as: the launch or collapse contents (70 R220, 45 R185). -/
  image : List Host.Cell
  /-- The configuration, fixed (70 R222). The model's own, log entry 1. -/
  cfg : Params
  /-- The model's own, log entry 4. -/
  env : Env
  /-- The hosts; an agent not listed is idle. The model's own, log entry 9. -/
  hosts : List (Nat × HostSide)
  /-- Who moves next, in order. The model's own, log entry 9. -/
  schedule : List Turn
  /-- The agent whose command the current step finishes. The model's own, log entry 11. -/
  turn : Nat
  deriving DecidableEq, Repr

/-- What an unlisted offset reads as: the launch image's byte, an offset the image does not list holding 0
(70 R220; log entry 3). -/
def imageByte (image : List Host.Cell) (off : Nat) : Byte :=
  (Sparse.find? image off).getD 0

/-- The canonical form of the bank: offsets of the address space (10 R40), strictly rising, none with the byte an
unlisted offset reads as. -/
def Memory.wf (image bank : List Host.Cell) : Bool :=
  Sparse.wf (imageByte image) bank && bank.all (fun e => decide (e.1 < 1024))

/-- The block at a successful construction (10 R42), nothing scheduled. Log entries 2 to 6, 9, 11 and 25 name the values
the spec does not give. -/
def State.reset : State where
  ifaces := []
  poweredOn := false
  locked := false
  currentVcoRate := 0
  cache := ⟨0, 0, 0, 0, 0⟩
  cacheStatus := .empty
  postdivLock := .free
  gpdivLock := .free
  fault := none
  refused := none
  constructed := true
  constructFailed := false
  history := []
  inProgress := []
  bank := []
  image := Config.bankDraw 0
  cfg := Config.params
  env := ⟨[], [], [], [], [], 0, 1⟩
  hosts := []
  schedule := []
  turn := 1

end Sys2Proof.Machine
end

