-- ==== Sys2Proof/Machine/Ops.lean ====
section
/-! DEFINITION. The named operations: the event history, the environment's draws, the register bank and its
fields, sequences of bank operations, the mux locks, and how a command ends (20 R43 to R56, 60 R200). -/

namespace Sys2Proof.Machine

/-- The three outcomes of a step over this machine's types. -/
abbrev Result := Host.Outcome State Fault Refusal

/-! ### History -/

/-- Record an event, after all earlier ones (00 R16, 10 R35). -/
def State.record (e : Event) (s : State) : State :=
  { s with history := s.history ++ [e] }

/-! ### Draws -/

/-- The environment's next answer to a read of FD_LOCK (20 R46). -/
def State.drawLock (s : State) : Bool × State :=
  match s.env.lock with
  | b :: rest => (b, { s with env := { s.env with lock := rest } })
  | [] => (Config.freeBit s.env.drawn, { s with env := { s.env with drawn := s.env.drawn + 1 } })

/-- The environment's next answer to a read of FD_RUNNING (20 R46). -/
def State.drawRunning (s : State) : Bool × State :=
  match s.env.running with
  | b :: rest => (b, { s with env := { s.env with running := rest } })
  | [] => (Config.freeBit s.env.drawn, { s with env := { s.env with drawn := s.env.drawn + 1 } })

/-- The environment's outcome of RESTORE's rate transaction (45 R183). -/
def State.drawRestore (s : State) : Bool × State :=
  match s.env.restore with
  | b :: rest => (b, { s with env := { s.env with restore := rest } })
  | [] => (Config.freeBit s.env.drawn, { s with env := { s.env with drawn := s.env.drawn + 1 } })

/-- The environment's outcome of construction (70 R221). -/
def State.drawConstruct (s : State) : ConstructDraw × State :=
  match s.env.construct with
  | d :: rest => (d, { s with env := { s.env with construct := rest } })
  | [] => (Config.freeConstruct s.env.drawn, { s with env := { s.env with drawn := s.env.drawn + 1 } })

/-- The environment's next contents of the whole bank (45 R185). -/
def State.drawImage (s : State) : List Host.Cell × State :=
  match s.env.images with
  | im :: rest => (im, { s with env := { s.env with images := rest } })
  | [] => (Config.bankDraw s.env.imaged, { s with env := { s.env with imaged := s.env.imaged + 1 } })

/-! ### The register bank -/

/-- The byte a bank offset stores: the last write, or the launch contents (20 R45). -/
def State.stored (s : State) (off : Nat) : Byte :=
  Sparse.get (imageByte s.image) s.bank off

/-- Store a byte at a bank offset, keeping the bank's canonical form. -/
def State.putByte (off : Nat) (v : Byte) (s : State) : State :=
  { s with bank := Sparse.set (imageByte s.image) off v s.bank }

/-- A byte with a one-bit field replaced by a drawn bit (20 R46). -/
def overlayBit (f : FieldDesc) (d : Bool) (b : Byte) : Byte :=
  (b &&& ~~~f.mask) ||| (if d then f.mask else 0)

/-- At LOCK_STATUS's offset the lock bit of the byte is a draw (20 R46; log entry 12). -/
def overlayLock (off : Nat) (r : Byte × State) : Byte × State :=
  if off = r.2.cfg.offset .lockStatus then
    (overlayBit (r.2.cfg.fd .lock) r.2.drawLock.1 r.1, r.2.drawLock.2)
  else r

/-- At SYS_CTRL's offset the "already running" bit of the byte is a draw (20 R46; log entry 12). -/
def overlayRunning (off : Nat) (r : Byte × State) : Byte × State :=
  if off = r.2.cfg.offset .sysCtrl then
    (overlayBit (r.2.cfg.fd .running) r.2.drawRunning.1 r.1, r.2.drawRunning.2)
  else r

/-- `MemRead(off, 1)` (20 R43, R45, R46): the byte, with its volatile bits drawn, and the Read event. -/
def State.memRead (off : Nat) (s : State) : Byte × State :=
  ((overlayRunning off (overlayLock off (s.stored off, s))).1,
    (overlayRunning off (overlayLock off (s.stored off, s))).2.record
      (.read off (overlayRunning off (overlayLock off (s.stored off, s))).1))

/-- `MemWrite(off, 1, v)` (20 R43, R45). -/
def State.memWrite (off : Nat) (v : Byte) (s : State) : State :=
  (s.putByte off v).record (.write off v)

/-- `Delay_us(n)`: an event and nothing else (20 R54). -/
def State.delayUs (us : Rat) (s : State) : State :=
  s.record (.delay us)

/-- `Delay_ns(n)`, recorded as `Delay(n / 1000)` (10 R35). -/
def State.delayNs (ns : Nat) (s : State) : State :=
  s.record (.delay (mkRat ns 1000))

/-- `write_then_delay_us` of the register port (20 R43). -/
def State.writeThenDelayUs (off : Nat) (v : Byte) (n : Nat) (s : State) : State :=
  (s.memWrite off v).delayUs n

/-- `write_then_delay_ns` of the register port (20 R43). -/
def State.writeThenDelayNs (off : Nat) (v : Byte) (n : Nat) (s : State) : State :=
  (s.memWrite off v).delayNs n

/-- `Barrier()`: under program order an event and nothing else (20 R56). -/
def State.barrier (s : State) : State :=
  s.record .barrier

/-- `RegRead(r)` (00 R15). -/
def State.regRead (r : RegName) (s : State) : Byte × State :=
  s.memRead (s.cfg.offset r)

/-- `RegWrite(r, v)` (00 R15). -/
def State.regWrite (r : RegName) (v : Byte) (s : State) : State :=
  s.memWrite (s.cfg.offset r) v

/-- `FieldRead(FD)` (20 R47). -/
def State.fieldRead (f : FieldDesc) (s : State) : Nat × State :=
  (f.extract (s.regRead f.reg).1, (s.regRead f.reg).2)

/-- The value a field holds in the bank (20 R45, R47): no access, no event. -/
def State.field (s : State) (f : FieldDesc) : Nat :=
  f.extract (s.stored (s.cfg.offset f.reg))

/-- `FieldWrite(FD, v)` (20 R47): one write when the field fills the byte, else a read and a write. -/
def State.fieldWrite (f : FieldDesc) (v : Nat) (s : State) : State :=
  if f.width = 8 then s.regWrite f.reg (BitVec.ofNat 8 v)
  else (s.regRead f.reg).2.regWrite f.reg (f.merge v (s.regRead f.reg).1)

/-- `FieldWrite2(fdA, vA, fdB, vB)` (42 R125): one read and one write when both fields are in one register. -/
def State.fieldWrite2 (f : FieldDesc) (v : Nat) (g : FieldDesc) (w : Nat) (s : State) : State :=
  if f.reg = g.reg then
    (s.regRead f.reg).2.regWrite f.reg
      (((s.regRead f.reg).1 &&& ~~~(f.mask ||| g.mask)) ||| f.place v ||| g.place w)
  else (s.fieldWrite f v).fieldWrite g w

/-! ### Sequences of bank operations -/

/-- One operation of a command's fixed sequence (43 R153, 44 R165, R168, R169). -/
inductive RegOp where
  | field (f : FieldDesc) (v : Nat)
  | field2 (f : FieldDesc) (v : Nat) (g : FieldDesc) (w : Nat)
  | byte (r : RegName) (v : Byte)
  | delay (us : Rat)
  | barrier
  deriving DecidableEq, Repr

/-- Perform one operation. -/
def RegOp.run (o : RegOp) (s : State) : State :=
  match o with
  | .field f v => s.fieldWrite f v
  | .field2 f v g w => s.fieldWrite2 f v g w
  | .byte r v => s.regWrite r v
  | .delay us => s.delayUs us
  | .barrier => s.barrier

/-- Perform operations in the order of the list, none merged, dropped or moved (20 R53). -/
def runOps : List RegOp → State → State
  | [], s => s
  | o :: rest, s => runOps rest (o.run s)

/-! ### The mux locks -/

/-- Free a lock that the agent holds. -/
def Lock.releaseBy (a : Nat) (l : Lock) : Lock :=
  if l = .held a then .free else l

/-- Hold postdiv_lock around an operation inside one command, and put it back as it was (20 R58, log entry 21). -/
def underPostdivLock {α : Type} (f : State → α × State) (s : State) : α × State :=
  ((f { s with postdivLock := .held s.turn }).1,
    { (f { s with postdivLock := .held s.turn }).2 with postdivLock := s.postdivLock })

/-! ### How a command ends -/

/-- A command's body ends in one of three ways (60 R200). -/
inductive Ending where
  /-- It completes, with an error code. -/
  | completes (e : ErrCode) (s : State)
  /-- It sets the sticky fault. -/
  | faults (r : Fault)
  /-- It sets the sticky refused mark, none of its body performed. -/
  | refuses (r : Refusal)
  deriving DecidableEq, Repr

/-- The interface of an agent (60 R212). -/
def State.iface (s : State) (a : Nat) : Iface :=
  Sparse.get (fun _ => Iface.reset) s.ifaces a

/-- Replace the interface of an agent. -/
def State.setIface (a : Nat) (f : Iface) (s : State) : State :=
  { s with ifaces := Sparse.set (fun _ => Iface.reset) a f s.ifaces }

/-- The code of an error (30 R66). -/
def ErrCode.code : ErrCode → Byte
  | .ok => 0x00
  | .lockTimeout => 0x01
  | .invalidDividerIndex => 0x02
  | .allocationFailure => 0x03
  | .deviceAbsent => 0x04
  | .illegalCommand => 0x05

/-- Write ERR of an agent's interface (10 R23). -/
def State.setErr (a : Nat) (e : ErrCode) (s : State) : State :=
  s.setIface a { s.iface a with err := e.code }

/-- Leave the in-progress set and free the mux lock held since `start` (20 R57, R59). -/
def State.leave (a : Nat) (s : State) : State :=
  { s with
    inProgress := Sparse.erase a s.inProgress
    postdivLock := s.postdivLock.releaseBy a
    gpdivLock := s.gpdivLock.releaseBy a }

/-- Completion: ERR, CmdEnd, and out of the in-progress set (60 R200.1, 20 R57). -/
def finishCommand (op : Byte) (e : ErrCode) (s : State) : State :=
  ((s.setErr s.turn e).record (.cmdEnd s.turn op e)).leave s.turn

/-- `fault <Fault>`: the sticky mark and nothing else (60 R200.2). -/
def State.raiseFault (r : Fault) (s : State) : State :=
  { s with fault := some r }

/-- A refusal: the sticky mark and nothing else (60 R200.3). -/
def State.markRefused (r : Refusal) (s : State) : State :=
  { s with refused := some r }

/-- A faulted or refused block executes no command (10 R34, 60 R200). -/
def State.stuck? (s : State) : Option Result :=
  match s.fault with
  | some r => some (.fault r)
  | none =>
    match s.refused with
    | some r => some (.refused r)
    | none => none

/-- The one shape of every command's `finish` step (20 R57, 60 R200, R206): nothing once faulted or refused,
DeviceAbsent while not constructed (10 R33), else the body. -/
def runCommand (i : Instr) (body : State → Ending) (s : State) : Result :=
  match s.stuck? with
  | some o => o
  | none =>
    if s.constructed then
      match body s with
      | .completes e t => .next (finishCommand (opcode i) e t)
      | .faults r => .next (s.raiseFault r)
      | .refuses r => .next (s.markRefused r)
    else .next (finishCommand (opcode i) .deviceAbsent s)

end Sys2Proof.Machine
end

