-- ==== Sys2Proof/Machine/Operands.lean ====
section
/-! DEFINITION. Operands and results: ARG0 and ARG1 of the agent whose command runs, and its RES registers
(10 R21, R22; 30 R64). -/

namespace Sys2Proof.Machine

/-- ARG0 as a natural number, unextended and unscaled (30 R64). -/
def State.arg0 (s : State) : Nat := (s.iface s.turn).arg0.toNat

/-- ARG1 as a natural number (30 R64). -/
def State.arg1 (s : State) : Nat := (s.iface s.turn).arg1.toNat

/-- An interface with `RES[i] <- v` performed: the value and its valid bit (10 R22). -/
def Iface.withRes (i : Fin 6) (v : Nat) (f : Iface) : Iface :=
  { f with res := f.res.set i.val (BitVec.ofNat 64 v), resv := f.resv.set i.val true }

/-- `RES[i] <- v` (00 R15, 10 R22). -/
def State.setRes (i : Fin 6) (v : Nat) (s : State) : State :=
  s.setIface s.turn ((s.iface s.turn).withRes i v)

/-- An interface with every valid bit cleared (10 R22). -/
def Iface.cleared (f : Iface) : Iface :=
  { f with resv := #v[false, false, false, false, false, false] }

/-- An interface with an argument register written (10 R21). -/
def Iface.withArg (k : ArgReg) (v : DWord) (f : Iface) : Iface :=
  match k with
  | .arg0 => { f with arg0 := v }
  | .arg1 => { f with arg1 := v }

/-- What a host read of RES[i] gives: nothing while the valid bit is 0 (10 R22). -/
def Iface.readRes (i : Fin 6) (f : Iface) : Option DWord :=
  if f.resv[i.val] then some f.res[i.val] else none

end Sys2Proof.Machine
end

