-- ==== Sys2Proof/Machine/Flags.lean ====
section
/-! DEFINITION. The one-bit results the spec gives: the FSM override flag, the quarter-step choice, `locked` and
`powered_on`, and the divider selects' range checks. The block has no flag register (10 R25). -/

namespace Sys2Proof.Machine

/-- The FSM override flag from the bit-clock in MHz: 0 inside the closed window 1500 to 2500 (40 R91). -/
def fsmOverride (b : Nat) : Nat :=
  if 1500 ≤ b ∧ b ≤ 2500 then 0 else 1

/-- Write `locked` (10 R27). -/
def State.setLocked (b : Bool) (s : State) : State :=
  { s with locked := b }

/-- Write `powered_on` (10 R26). -/
def State.setPoweredOn (b : Bool) (s : State) : State :=
  { s with poweredOn := b }

/-- Write `current_vco_rate` (10 R28). -/
def State.setVcoRate (t : Nat) (s : State) : State :=
  { s with currentVcoRate := BitVec.ofNat 64 t }

/-- Write the cache (10 R30). -/
def State.setCache (c : Cache) (s : State) : State :=
  { s with cache := c }

/-- Write `cache_status` (10 R31). -/
def State.setCacheStatus (c : CacheStatus) (s : State) : State :=
  { s with cacheStatus := c }

end Sys2Proof.Machine
end

