-- ==== Sys2Proof/Machine/Planner.lean ====
section
/-! DEFINITION. The FrequencyPlanner: MULT_X100, GCD, PLAN (40_planner). Exact arithmetic on naturals (00 R13). -/

namespace Sys2Proof.Machine

/-- `MHz(f)` (00 R14). -/
def mhz (f : Nat) : Nat := f / 1000000

/-- `round_half_up(a, b)` (00 R13). -/
def roundHalfUp (a b : Nat) : Nat := (a + b / 2) / b

/-- The quarter step `Q` of the reference clock (40 R87). -/
def quarterStep : Nat := Config.refClkHz / 4

/-- The quarter a remainder falls in, each closed at its lower boundary (40 R87). -/
def quarterOf (r : Nat) : Nat :=
  if r < quarterStep then 0
  else if r < 2 * quarterStep then 1
  else if r < 3 * quarterStep then 2
  else 3

/-- `MultX100(v)`: the multiplier times 100, and the remainder after the quarter step (40 R87). -/
def multX100 (v : Nat) : Nat × Nat :=
  (100 * (v / Config.refClkHz) + 25 * quarterOf (v % Config.refClkHz),
    v % Config.refClkHz - quarterOf (v % Config.refClkHz) * quarterStep)

/-- Euclid's loop with `fuel` turns left (40 R88). -/
def gcdLoop : Nat → Nat → Nat → Nat
  | 0, a, _ => a
  | fuel + 1, a, b => if b = 0 then a else gcdLoop fuel b (a % b)

/-- `Gcd(a, b)`; `b` strictly decreases, so `b + 1` turns are enough (40 R88). -/
def gcd (a b : Nat) : Nat := gcdLoop (b + 1) a b

/-- The code of the band an input falls in: the last band whose lower bound it reaches, `c` where it reaches none. -/
def bandFrom (c : Byte) : List Band → Nat → Byte
  | [], _ => c
  | x :: rest, b => if x.lo ≤ b then bandFrom x.code rest b else c

/-- A band lookup: bands closed below and open above, inputs below the table taking the first code
(40 R85, 42 R123). An empty table is ill-formed: log entry 24. -/
def bandLookup (t : List Band) (b : Nat) : Byte :=
  match t with
  | [] => 0
  | x :: rest => bandFrom x.code (x :: rest) b

/-- `RangeSelect(b)` (40 R85). -/
def rangeSelect (p : Params) (b : Nat) : Byte := bandLookup p.hsfreqTable b

/-- `OscTarget(m)` (40 R86). -/
def oscTarget (p : Params) (m : Nat) : Half :=
  if m ≤ 1000 then p.oscCodeA else if m ≤ 1500 then p.oscCodeB else 0

/-- `LoopDiv(t)`, masked to 12 bits (40 R89). -/
def loopDiv (t : Nat) : Nat := roundHalfUp (4 * t) Config.refClkHz % 2 ^ 12

/-- The low 6-bit field of a ratio (40 R90). -/
def loopLow (r : Nat) : Nat := r &&& 0x3F

/-- The high 6-bit field of a ratio (40 R90). -/
def loopHigh (r : Nat) : Nat := (r >>> 6) &&& 0x3F

/-- A FrequencyPlan (40 R93). -/
structure FreqPlan where
  hs : Byte
  osc : Half
  ratio : Nat
  fsm : Nat
  deriving DecidableEq, Repr

/-- The line rate `t >> idx` (40 R81). -/
def lineRate (t idx : Nat) : Nat := t >>> idx

/-- The plan for target `t` and post-divider index `idx`: the lookups use the line rate, the ratio uses `t`
(40 R81, R93). -/
def planFor (p : Params) (t idx : Nat) : FreqPlan where
  hs := rangeSelect p (mhz (2 * lineRate t idx))
  osc := oscTarget p (mhz (lineRate t idx))
  ratio := loopDiv t
  fsm := fsmOverride (mhz (2 * lineRate t idx))

/-- Write the six results of PLAN (40 R93). -/
def State.setPlan (q : FreqPlan) (s : State) : State :=
  (((((s.setRes 0 q.hs.toNat).setRes 1 q.osc.toNat).setRes 2 q.ratio).setRes 3 q.fsm).setRes 4
    (loopLow q.ratio)).setRes 5 (loopHigh q.ratio)

/-- The body of PLAN (40 R93). -/
def planBody (s : State) : Ending :=
  if 5 < s.arg1 then .completes .invalidDividerIndex s
  else .completes .ok (s.setPlan (planFor s.cfg s.arg0 s.arg1))

/-- MULT_X100 (40 R87). -/
def execMultX100 (s : State) : Result :=
  runCommand .multX100
    (fun s => .completes .ok ((s.setRes 0 (multX100 s.arg0).1).setRes 1 (multX100 s.arg0).2)) s

/-- GCD (40 R88). -/
def execGcd (s : State) : Result :=
  runCommand .gcd (fun s => .completes .ok (s.setRes 0 (gcd s.arg0 s.arg1))) s

/-- PLAN (40 R93). -/
def execPlan (s : State) : Result := runCommand .plan planBody s

end Sys2Proof.Machine
end

