-- ==== Sys2Proof/Machine/Ssc.lean ====
section
/-! DEFINITION. The SSCParameterCalculator: SSC_COMPUTE (41_ssc). -/

namespace Sys2Proof.Machine

/-- An SscPlan at full width (41 R108, R111). -/
structure SscPlan where
  peak : Nat
  step : Nat
  mint : Nat
  fden : Nat
  fquot : Nat
  frem : Nat
  deriving DecidableEq, Repr

/-- The peak deviation (41 R101). -/
def sscPeak (m : Nat) : Nat :=
  m * Config.sscOffsetPpm * Config.sscPeakScale / 100 / 1000000

/-- The step size (41 R102). -/
def sscStep (peak : Nat) : Nat :=
  peak * Config.sscFreqHz * Config.sscStepScale / Config.refClkHz

/-- The integer multiplier, wrapping modulo 2^64 below the bias (41 R103). -/
def sscMint (m : Nat) : Nat :=
  (m * 4 / 100 + (2 ^ 64 - Config.mintBias)) % 2 ^ 64

/-- The fractional denominator (41 R104). -/
def sscFracDen (v : Nat) : Nat :=
  Config.refClkHz / gcd v Config.refClkHz

/-- The fractional quotient (41 R105). -/
def sscFracQuot (rem : Nat) : Nat :=
  rem * Config.sscFracScale / Config.refClkHz

/-- The remainder `r2` of the fractional quotient (41 R105). -/
def sscR2 (rem : Nat) : Nat :=
  rem * Config.sscFracScale % Config.refClkHz

/-- The fractional remainder (41 R106). -/
def sscFracRem (r2 fden : Nat) : Nat :=
  r2 * fden / Config.refClkHz

/-- `SscCompute(v)` (41 R111). -/
def sscCompute (v : Nat) : SscPlan where
  peak := sscPeak (multX100 v).1
  step := sscStep (sscPeak (multX100 v).1)
  mint := sscMint (multX100 v).1
  fden := sscFracDen v
  fquot := sscFracQuot (multX100 v).2
  frem := sscFracRem (sscR2 (multX100 v).2) (sscFracDen v)

/-- The value an entry of SSC_BYTE_MAP names (41 R110). -/
def SscPlan.value (q : SscPlan) : SscSource → Nat
  | .peak => q.peak
  | .step => q.step
  | .mint => q.mint
  | .fracDen => q.fden
  | .fracQuot => q.fquot
  | .fracRem => q.frem

/-- A rate outside the exact domain of the formulas (41 R107). -/
def sscOutOfDomain (v : Nat) : Bool := decide (Config.sscExactLimit ≤ v)

/-- Write the six results of SSC_COMPUTE (41 R111). -/
def State.setSsc (q : SscPlan) (s : State) : State :=
  (((((s.setRes 0 q.peak).setRes 1 q.step).setRes 2 q.mint).setRes 3 q.fden).setRes 4 q.fquot).setRes 5 q.frem

/-- SSC_COMPUTE (41 R111). -/
def execSscCompute (s : State) : Result :=
  runCommand .sscCompute
    (fun s =>
      if sscOutOfDomain s.arg0 then .refuses .sscOutOfExactDomain
      else .completes .ok (s.setSsc (sscCompute s.arg0))) s

end Sys2Proof.Machine
end

