-- ==== Sys2Proof/Machine/Rate.lean ====
section
/-! DEFINITION. The rate commands ROUND_RATE, SET_RATE, RECALC_RATE, and the post-divider decode that SET_RATE
shares with POSTDIV_GET (43_rate, 42 R124). -/

namespace Sys2Proof.Machine

/-- The first table row equal to a pattern (42 R124). -/
def decodeRow (t : Vector PostdivRow 6) (rc bc : Nat) : Option Nat :=
  t.toList.findIdx? (fun r => decide (r.rc.toNat = rc) && decide (r.bc.toNat = bc))

/-- The index and the unmapped flag a pattern decodes to (42 R124). -/
def decodePattern (t : Vector PostdivRow 6) (rc bc : Nat) : Nat × Nat :=
  match decodeRow t rc bc with
  | some i => (i, 0)
  | none => (0, 1)

/-- Log an unmapped pattern (42 R124, 60 R213). -/
def State.logIfUnmapped (rc bc : Nat) (s : State) : State :=
  match decodeRow s.cfg.postdivTable rc bc with
  | some _ => s
  | none => s.record (.log (.unmappedPostDivIndex rc bc))

/-- `PostDivDecode()`: the range code, then the bias code, then the first matching row (42 R124). -/
def postDivDecode (s : State) : (Nat × Nat) × State :=
  let rc := s.fieldRead (s.cfg.fd .vcoRange)
  let bc := rc.2.fieldRead (s.cfg.fd .cpBias)
  (decodePattern s.cfg.postdivTable rc.1 bc.1, bc.2.logIfUnmapped rc.1 bc.1)

/-- `WriteList(L)` over a step's register (43 R153). -/
def writeList (r : RegName) (l : List FixedWrite) : List RegOp :=
  l.map (fun w => .field (w.fd r) w.value.toNat)

/-- Step S16: the SSC block, in the order of SSC_BYTE_MAP (41 R110, 43 R153). -/
def sscOps (p : Params) (q : SscPlan) : List RegOp :=
  p.sscByteMap.map (fun e => .field e.fd (q.value e.src >>> e.shift))

/-- The writes of steps S1 to S16, in order (43 R153). -/
def rateSteps (p : Params) (q : FreqPlan) (c : SscPlan) : List (List RegOp) :=
  [ [.field (p.fd .pllEn) 1],
    [.field (p.fd .slew) p.srSlewVal.toNat],
    [.field (p.fd .hsfreq) q.hs.toNat],
    [.field (p.fd .oscLo) (q.osc.toNat &&& 0xFF), .field (p.fd .oscHi) ((q.osc.toNat >>> 8) &&& 0xFF)],
    writeList .inputDivOvr p.srInputDivOvr,
    [.field (p.fd .loopLo) (loopLow q.ratio), .field (p.fd .loopHi) (loopHigh q.ratio)],
    writeList .inputLoopRatio p.srInputLoopRatio,
    writeList .cpGain p.srCpGain,
    writeList .gmpCtrl p.srGmp,
    writeList .anaTestCtrl p.srAnaTest,
    [.field (p.fd .fsmOvr) q.fsm],
    writeList .phaseErrCtrl p.srPhaseErr,
    writeList .lockFilter p.srLockFilter,
    writeList .proDlyRelock p.srProDlyRelock,
    writeList .lockDetMode p.srLockDetMode,
    if p.sscEnabled then sscOps p c else [] ]

/-- The delay after a step, none when it is 0 (43 R153). -/
def stepDelay (us : Rat) : List RegOp :=
  if us = 0 then [] else [.delay us]

/-- Each step followed by its delay (43 R153). -/
def withDelays : List (List RegOp) → List Rat → List RegOp
  | step :: steps, d :: ds => step ++ (stepDelay d ++ withDelays steps ds)
  | steps, _ => steps.flatten

/-- The whole commit sequence of the rate transaction (43 R153). -/
def rateOps (p : Params) (q : FreqPlan) (c : SscPlan) : List RegOp :=
  withDelays (rateSteps p q c) p.srDelayUs.toList

/-- The rate transaction with a target rate: SET_RATE after its operand and its refusal (43 R155, 45 R182). -/
def rateTransaction (t : Nat) (s : State) : State :=
  let d := underPostdivLock postDivDecode s
  ((runOps (rateOps s.cfg (planFor s.cfg t d.1.1) (sscCompute t)) d.2).setVcoRate t).setLocked false

/-- The rate transaction is refused: SSC enabled and the rate outside the exact domain (43 R155). -/
def rateRefused (p : Params) (t : Nat) : Bool := sscOutOfDomain t && p.sscEnabled

/-- The rate the loop-divider fields stand for (43 R156). -/
def loopRate (lo hi : Nat) : Nat := Config.refClkHz * ((hi <<< 6) ||| lo) / 4

/-- `RecalcRate()`: the cheap path, or the read-back, low field first (43 R156). -/
def recalcRate (s : State) : Nat × State :=
  if s.currentVcoRate ≠ 0 then (s.currentVcoRate.toNat, s)
  else
    let lo := s.fieldRead (s.cfg.fd .loopLo)
    let hi := lo.2.fieldRead (s.cfg.fd .loopHi)
    (loopRate lo.1 hi.1, hi.2)

/-- `clamp(x, lo, hi)` (00 R13). -/
def clamp (x lo hi : Nat) : Nat := min (max x lo) hi

/-- ROUND_RATE (43 R150). -/
def execRoundRate (s : State) : Result :=
  runCommand .roundRate
    (fun s => .completes .ok (s.setRes 0 (clamp s.arg0 Config.minPllRateHz Config.maxPllRateHz))) s

/-- SET_RATE (43 R155). -/
def execSetRate (s : State) : Result :=
  runCommand .setRate
    (fun s =>
      if rateRefused s.cfg s.arg0 then .refuses .sscOutOfExactDomain
      else .completes .ok (rateTransaction s.arg0 s)) s

/-- RECALC_RATE (43 R157). -/
def execRecalcRate (s : State) : Result :=
  runCommand .recalcRate (fun s => .completes .ok ((recalcRate s).2.setRes 0 (recalcRate s).1)) s

end Sys2Proof.Machine
end

