-- ==== Sys2Proof/Machine/Divider.lean ====
section
/-! DEFINITION. The DividerTree: POSTDIV_SET, POSTDIV_GET, GPDIV_SET, GPDIV_GET and the three pixel-divider
commands (42_divider_tree). The mux locks are taken by `start` and freed by completion (20 R59). -/

namespace Sys2Proof.Machine

/-- `SubRange(f_mhz)` (42 R123). -/
def subRange (p : Params) (f : Nat) : Byte := bandLookup p.subrangeTable f

/-- The writes of POSTDIV_SET: range code before bias code, the sub-range code merged into its register's one write
(42 R125, R126). -/
def postdivOps (p : Params) (row : PostdivRow) (sc : Nat) : List RegOp :=
  match p.subrangeReg with
  | .vcoCntrl =>
    [.field2 (p.fd .vcoRange) row.rc.toNat (p.fd .subrange) sc, .field (p.fd .cpBias) row.bc.toNat]
  | .cpBias =>
    [.field (p.fd .vcoRange) row.rc.toNat, .field2 (p.fd .cpBias) row.bc.toNat (p.fd .subrange) sc]

/-- POSTDIV_SET with an index in range (42 R126). -/
def postdivSelect (i : Fin 6) (s : State) : State :=
  let vco := recalcRate s
  runOps (postdivOps s.cfg s.cfg.postdivTable[i.val] (subRange s.cfg (mhz (vco.1 >>> i.val))).toNat) vco.2

/-- The body of POSTDIV_SET: the operand check before any register access (42 R126). -/
def postdivSetBody (s : State) : Ending :=
  if h : s.arg0 < 6 then .completes .ok (postdivSelect ⟨s.arg0, h⟩ s)
  else .completes .invalidDividerIndex s

/-- The body of POSTDIV_GET (42 R127). -/
def postdivGetBody (s : State) : State :=
  let d := postDivDecode s
  (d.2.setRes 0 d.1.1).setRes 1 d.1.2

/-- The divisor of the parent that a GP-divider value selects: values 0 to 5 select ÷1 to ÷32, and 6 and 7, legal field
contents, select none (42 R129). -/
def gpdivDivisor (v : Nat) : Option Nat :=
  if v < Config.gpdivParents then some (2 ^ v) else none

/-- The divisor of the parent that FD_GPDIV selects (42 R129). -/
def State.gpdivParent (s : State) : Option Nat := gpdivDivisor (s.field (s.cfg.fd .gpdiv))

/-- The body of GPDIV_SET (42 R130). -/
def gpdivSetBody (s : State) : Ending :=
  if 7 < s.arg0 then .completes .invalidDividerIndex s
  else .completes .ok (s.fieldWrite (s.cfg.fd .gpdiv) s.arg0)

/-- The body of GPDIV_GET (42 R131). -/
def gpdivGetBody (s : State) : State :=
  (s.fieldRead (s.cfg.fd .gpdiv)).2.setRes 0 (s.fieldRead (s.cfg.fd .gpdiv)).1

/-- `PixRatio(t, p)` (42 R133). -/
def pixRatio (t p : Nat) : Nat :=
  if t = 0 then 128 else clamp (roundHalfUp p t) 1 128

/-- `PixRate(p, ratio)`, the ceiling of the quotient (42 R133). -/
def pixRate (p ratio : Nat) : Nat := (p + ratio - 1) / ratio

/-- The body of PIXDIV_SET_RATE: bit 7 is kept by the read-modify-write (42 R132, R135). -/
def pixdivSetBody (s : State) : State :=
  (s.fieldWrite (s.cfg.fd .pixdiv) (pixRatio s.arg0 s.arg1 - 1)).setRes 1 (pixRatio s.arg0 s.arg1)

/-- The body of PIXDIV_RECALC_RATE (42 R136). -/
def pixdivRecalcBody (s : State) : State :=
  (s.fieldRead (s.cfg.fd .pixdiv)).2.setRes 0
    (pixRate s.arg1 ((s.fieldRead (s.cfg.fd .pixdiv)).1 + 1))

/-- POSTDIV_SET (42 R126). -/
def execPostdivSet (s : State) : Result := runCommand .postdivSet postdivSetBody s

/-- POSTDIV_GET (42 R127). -/
def execPostdivGet (s : State) : Result :=
  runCommand .postdivGet (fun s => .completes .ok (postdivGetBody s)) s

/-- GPDIV_SET (42 R130). -/
def execGpdivSet (s : State) : Result := runCommand .gpdivSet gpdivSetBody s

/-- GPDIV_GET (42 R131). -/
def execGpdivGet (s : State) : Result :=
  runCommand .gpdivGet (fun s => .completes .ok (gpdivGetBody s)) s

/-- PIXDIV_ROUND_RATE (42 R134). -/
def execPixdivRoundRate (s : State) : Result :=
  runCommand .pixdivRoundRate
    (fun s => .completes .ok
      ((s.setRes 0 (pixRate s.arg1 (pixRatio s.arg0 s.arg1))).setRes 1 (pixRatio s.arg0 s.arg1))) s

/-- PIXDIV_SET_RATE (42 R135). -/
def execPixdivSetRate (s : State) : Result :=
  runCommand .pixdivSetRate (fun s => .completes .ok (pixdivSetBody s)) s

/-- PIXDIV_RECALC_RATE (42 R136). -/
def execPixdivRecalcRate (s : State) : Result :=
  runCommand .pixdivRecalcRate (fun s => .completes .ok (pixdivRecalcBody s)) s

end Sys2Proof.Machine
end

