-- ==== Sys2Proof/Machine/Lifecycle.lean ====
section
/-! DEFINITION. The lifecycle commands PREPARE, UNPREPARE, ENABLE, IS_ENABLED and the lock poll (44_lifecycle). -/

namespace Sys2Proof.Machine

/-- The lock poll with a number of attempts left: a delay only where a retry follows (44 R161). -/
def lockPollFrom : Nat → State → Bool × State
  | 0, s => (false, s.setLocked false)
  | n + 1, s =>
    let r := s.fieldRead (s.cfg.fd .lock)
    if r.1 = 1 then (true, r.2.setLocked true)
    else if n = 0 then (false, r.2.setLocked false)
    else lockPollFrom n (r.2.delayUs Config.lockPollDelayUs)

/-- `LockPoll()` (44 R161). -/
def lockPoll (s : State) : Bool × State := lockPollFrom Config.lockPollAttempts s

/-- The toggle of system-control through its two intermediate values (44 R165). -/
def toggleOps (p : Params) : List RegOp :=
  [.byte .sysCtrl p.sysctrlV1, .delay Config.sysctrlSettle1Us,
    .byte .sysCtrl p.sysctrlV2, .delay Config.sysctrlSettle2Us]

/-- The override write of the relock branch and its delay (44 R165). -/
def overrideOps (p : Params) : List RegOp :=
  [.field2 (p.fd .ovrEn) 0 (p.fd .ovr) 1, .delay p.tPrepOvr]

/-- The clock-select write after the relock branch's poll, all ones, and its delay (44 R165). -/
def clkselOps (p : Params) : List RegOp :=
  [.field (p.fd .clksel) (2 ^ p.widthClksel - 1), .delay p.tPrepClksel]

/-- The relock branch: whether its poll hit, and the state after it (44 R164, R165). -/
def relock (s : State) : Bool × State :=
  let p := lockPoll (runOps (overrideOps s.cfg ++ toggleOps s.cfg) s)
  if p.1 then (true, runOps (clkselOps s.cfg) p.2) else (false, p.2)

/-- The toggle and poll every PREPARE ends with (44 R165). -/
def toggleAndPoll (s : State) : ErrCode × State :=
  let p := lockPoll (runOps (toggleOps s.cfg) s)
  if p.1 then (.ok, p.2.setPoweredOn true) else (.lockTimeout, p.2)

/-- PREPARE while powered off (44 R165). -/
def prepareOff (s : State) : ErrCode × State :=
  let run := s.fieldRead (s.cfg.fd .running)
  if run.1 = 1 then
    let r := relock run.2
    if r.1 then toggleAndPoll r.2 else (.lockTimeout, r.2)
  else toggleAndPoll run.2

/-- The body of PREPARE: a no-op while powered on (44 R165). -/
def prepareBody (s : State) : ErrCode × State :=
  if s.poweredOn then (.ok, s) else prepareOff s

/-- The sequence of UNPREPARE (44 R168). -/
def unprepareOps (p : Params) : List RegOp :=
  [.field (p.fd .sscGate) 0, .delay p.tUnpGate,
    .field (p.fd .clksel) 0, .delay p.tUnpClksel,
    .field2 (p.fd .ovrEn) 1 (p.fd .ovr) 0, .delay p.tUnpOvr]

/-- The body of UNPREPARE: a no-op while powered off (44 R168). -/
def unprepareBody (s : State) : State :=
  if s.poweredOn then ((runOps (unprepareOps s.cfg) s).setPoweredOn false).setLocked false else s

/-- The sequence of ENABLE (44 R169). -/
def enableOps (p : Params) : List RegOp :=
  [.field (p.fd .sscGate) 1, .barrier]

/-- The body of ENABLE: a no-op while powered off (44 R169). -/
def enableBody (s : State) : State :=
  if s.poweredOn then runOps (enableOps s.cfg) s else s

/-- PREPARE (44 R165). -/
def execPrepare (s : State) : Result :=
  runCommand .prepare (fun s => .completes (prepareBody s).1 (prepareBody s).2) s

/-- UNPREPARE (44 R168). -/
def execUnprepare (s : State) : Result :=
  runCommand .unprepare (fun s => .completes .ok (unprepareBody s)) s

/-- ENABLE (44 R169). -/
def execEnable (s : State) : Result :=
  runCommand .enable (fun s => .completes .ok (enableBody s)) s

/-- IS_ENABLED (44 R163). -/
def execIsEnabled (s : State) : Result :=
  runCommand .isEnabled
    (fun s => .completes .ok ((lockPoll s).2.setRes 0 (if (lockPoll s).1 then 1 else 0))) s

end Sys2Proof.Machine
end

