-- ==== Sys2Proof/Machine/StateCache.lean ====
section
/-! DEFINITION. The StateCache: SAVE and RESTORE (45_state_cache). -/

namespace Sys2Proof.Machine

/-- The four captured bytes, read in the source's order (45 R181). The rate is not yet known: 0. -/
def captureBytes (s : State) : Cache × State :=
  let a := s.regRead .vcoCntrl
  let b := a.2.regRead .cpBias
  let c := b.2.regRead .pllCntrl
  let d := c.2.regRead .pixdiv
  (⟨a.1, b.1, c.1, d.1, 0⟩, d.2)

/-- The captured rate: polled, then RecalcRate on a hit, else 0 (45 R181). -/
def captureRate (s : State) : Nat × State :=
  let p := lockPoll s
  if p.1 then recalcRate p.2 else (0, p.2)

/-- The body of SAVE (45 R181). -/
def saveBody (s : State) : State :=
  let b := captureBytes s
  let r := captureRate b.2
  ((r.2.setCache { b.1 with rate := BitVec.ofNat 64 r.1 }).setCacheStatus .valid).setRes 0 r.1

/-- The four whole-byte writes of RESTORE, in order and with no read (45 R182). -/
def restoreOps (c : Cache) : List RegOp :=
  [.byte .vcoCntrl c.vcoCntrl, .byte .cpBias c.cpBias, .byte .pllCntrl c.pllCntrl, .byte .pixdiv c.pixdiv]

/-- RESTORE after its checks: the rate transaction, the outcome draw, the four writes (45 R182, R183). -/
def restoreRun (c : Cache) (s : State) : ErrCode × State :=
  let d := (rateTransaction c.rate.toNat s).drawRestore
  if d.1 then (.ok, (runOps (restoreOps c) d.2).setCacheStatus .consumed) else (.lockTimeout, d.2)

/-- The body of RESTORE (45 R182, 60 R206). -/
def restoreBody (s : State) : Ending :=
  if s.cacheStatus = .empty then .faults .cacheNotSaved
  else if rateRefused s.cfg s.cache.rate.toNat then .refuses .sscOutOfExactDomain
  else .completes (restoreRun s.cache s).1 (restoreRun s.cache s).2

/-- SAVE (45 R181). -/
def execSave (s : State) : Result :=
  runCommand .save (fun s => .completes .ok (saveBody s)) s

/-- RESTORE (45 R182). -/
def execRestore (s : State) : Result := runCommand .restore restoreBody s

end Sys2Proof.Machine
end

