-- ==== Sys2Proof/Machine/Dispatch.lean ====
section
/-! DEFINITION. One arm per command: each is one direct call of its meaning. -/

namespace Sys2Proof.Machine

/-- The meaning of a command: the `finish` step of the command of agent `s.turn` (20 R57). -/
def exec (i : Instr) (s : State) : Host.Outcome State Fault Refusal :=
  match i with
  | .multX100 => Sys2Proof.Machine.execMultX100 s
  | .gcd => Sys2Proof.Machine.execGcd s
  | .plan => Sys2Proof.Machine.execPlan s
  | .sscCompute => Sys2Proof.Machine.execSscCompute s
  | .roundRate => Sys2Proof.Machine.execRoundRate s
  | .setRate => Sys2Proof.Machine.execSetRate s
  | .recalcRate => Sys2Proof.Machine.execRecalcRate s
  | .prepare => Sys2Proof.Machine.execPrepare s
  | .unprepare => Sys2Proof.Machine.execUnprepare s
  | .enable => Sys2Proof.Machine.execEnable s
  | .isEnabled => Sys2Proof.Machine.execIsEnabled s
  | .postdivSet => Sys2Proof.Machine.execPostdivSet s
  | .postdivGet => Sys2Proof.Machine.execPostdivGet s
  | .gpdivSet => Sys2Proof.Machine.execGpdivSet s
  | .gpdivGet => Sys2Proof.Machine.execGpdivGet s
  | .pixdivRoundRate => Sys2Proof.Machine.execPixdivRoundRate s
  | .pixdivSetRate => Sys2Proof.Machine.execPixdivSetRate s
  | .pixdivRecalcRate => Sys2Proof.Machine.execPixdivRecalcRate s
  | .save => Sys2Proof.Machine.execSave s
  | .restore => Sys2Proof.Machine.execRestore s

end Sys2Proof.Machine
end

