-- ==== Sys2Proof/Machine/Schedule.lean ====
section
/-! DEFINITION. Agents and their overlap, `start`, the host's accesses, power collapse, construction, and whose
move is next (20 R57 to R59, 45 R185, 60 R212, 70 R221, R231). -/

namespace Sys2Proof.Machine

/-! ### Overlap -/

/-- What 20 R58 asks of a command. -/
inductive CmdClass where
  | pure
  | postdivMux
  | gpdivMux
  | other
  deriving DecidableEq, Repr

/-- The class of a command (20 R58, 10 R32). SET_RATE counts as taking no lock. -/
def classOf : Instr → CmdClass
  | .multX100 => .pure
  | .gcd => .pure
  | .plan => .pure
  | .sscCompute => .pure
  | .roundRate => .pure
  | .setRate => .other
  | .recalcRate => .other
  | .prepare => .other
  | .unprepare => .other
  | .enable => .other
  | .isEnabled => .other
  | .postdivSet => .postdivMux
  | .postdivGet => .postdivMux
  | .gpdivSet => .gpdivMux
  | .gpdivGet => .gpdivMux
  | .pixdivRoundRate => .pure
  | .pixdivSetRate => .other
  | .pixdivRecalcRate => .other
  | .save => .other
  | .restore => .other

/-- The class of a word; an illegal word is in none of the named ones (log entry 15). -/
def classOfWord (w : Word) : CmdClass :=
  match decode w with
  | .ok i => classOf i
  | .error _ => .other

/-- The offsets of VCO_CNTRL, CP_BIAS and FD_SUBRANGE's register are distinct from GPDIV_REG's (20 R58.3). -/
def muxesApart (p : Params) : Bool :=
  decide (p.offset .vcoCntrl ≠ p.offset .gpdivReg) && decide (p.offset .cpBias ≠ p.offset .gpdivReg) &&
  decide (p.offset p.subrangeReg.reg ≠ p.offset .gpdivReg)

/-- A start of class `c` beside a command of class `d` is no fault (20 R58); two commands of one mux are a hold. -/
def overlapAllowed (p : Params) (c d : CmdClass) : Bool :=
  match c, d with
  | .pure, _ => true
  | _, .pure => true
  | .postdivMux, .postdivMux => true
  | .gpdivMux, .gpdivMux => true
  | .postdivMux, .gpdivMux => muxesApart p
  | .gpdivMux, .postdivMux => muxesApart p
  | _, _ => false

/-- A lock some other agent holds. -/
def Lock.heldByOther (a : Nat) : Lock → Bool
  | .free => false
  | .held b => b != a

/-- Some other agent's command in progress is of class `c`. -/
def othersRun (a : Nat) (c : CmdClass) (s : State) : Bool :=
  s.inProgress.any (fun e => e.1 != a && decide (classOfWord e.2 = c))

/-- The start of word `w` by agent `a` is not enabled: the agent holds (20 R58.2, 60 R200.4). -/
def mustHold (a : Nat) (w : Word) (s : State) : Bool :=
  match classOfWord w with
  | .postdivMux => s.postdivLock.heldByOther a || othersRun a .postdivMux s
  | .gpdivMux => s.gpdivLock.heldByOther a || othersRun a .gpdivMux s
  | _ => false

/-- Some overlap of the start is not permitted (20 R58.3, R58.4). -/
def overlapFault (a : Nat) (w : Word) (s : State) : Bool :=
  s.inProgress.any (fun e => e.1 != a && !overlapAllowed s.cfg (classOfWord w) (classOfWord e.2))

/-! ### Start -/

/-- Take the mux lock of a command's class (20 R59). -/
def takeLock (a : Nat) (c : CmdClass) (s : State) : State :=
  match c with
  | .postdivMux => { s with postdivLock := .held a }
  | .gpdivMux => { s with gpdivLock := .held a }
  | _ => s

/-- Enter the in-progress set (20 R57). -/
def State.enter (a : Nat) (w : Word) (s : State) : State :=
  { s with inProgress := Sparse.insert a w s.inProgress }

/-- `start`: a fault on an overlap that is not permitted; else the valid bits are cleared, CmdStart is recorded, and
the command enters the in-progress set with its lock (20 R57 to R59, 10 R22). That a start which faults does none of
these is the model's, where the spec is silent: DESIGN CHOICE, log entry 28. -/
def startCommand (a : Nat) (w : Word) (s : State) : State :=
  if overlapFault a w s then s.raiseFault .unserialized
  else
    takeLock a (classOfWord w)
      (((s.setIface a (s.iface a).cleared).record (.cmdStart a (opField w))).enter a w)

/-- The `finish` of a word that is no command: DeviceAbsent while not constructed, else IllegalCommand, and no other
effect (30 R65, 60 R206). -/
def finishIllegal (w : Word) (s : State) : State :=
  finishCommand (opField w) (if s.constructed then .illegalCommand else .deviceAbsent) s

/-! ### The host at its interface -/

/-- The host side of an agent. -/
def State.host (s : State) (a : Nat) : HostSide :=
  Sparse.get (fun _ => HostSide.idle) s.hosts a

/-- Replace the host side of an agent. -/
def State.setHost (a : Nat) (h : HostSide) (s : State) : State :=
  { s with hosts := Sparse.set (fun _ => HostSide.idle) a h s.hosts }

/-- The agent's program moves on. -/
def State.setProgram (a : Nat) (p : List HostOp) (s : State) : State :=
  s.setHost a { s.host a with program := p }

/-- The host gets a value back. -/
def State.deliver (a : Nat) (v : DWord) (s : State) : State :=
  s.setHost a { s.host a with reads := (s.host a).reads ++ [v] }

/-- The host reads RES[n] and the value is used; an invalid RES is fault ResultUnwritten (10 R22). -/
def readResult (a : Nat) (n : Fin 6) (use : DWord → State → State) (s : State) : State :=
  match (s.iface a).readRes n with
  | some v => use v (s.deliver a v)
  | none => s.raiseFault .resultUnwritten

/-- A host write of CMD: a hold leaves everything as it is, the program included (20 R58.2). -/
def writeCmd (a : Nat) (w : Word) (rest : List HostOp) (s : State) : State :=
  if mustHold a w s then s else startCommand a w (s.setProgram a rest)

/-- One operation of agent `a`'s program, with the rest of the program (70 R231). -/
def hostOp (a : Nat) (op : HostOp) (rest : List HostOp) (s : State) : State :=
  match op with
  | .writeArg k v => (s.setProgram a rest).setIface a ((s.iface a).withArg k v)
  | .copyRes n k =>
    readResult a n (fun v t => t.setIface a ((t.iface a).withArg k v)) (s.setProgram a rest)
  | .writeCmd w => writeCmd a w rest s
  | .writeCmdIfOk w => if (s.iface a).err = 0 then writeCmd a w rest s else s.setProgram a rest
  | .readRes n => readResult a n (fun _ t => t) (s.setProgram a rest)
  | .readErr => (s.setProgram a rest).deliver a ((s.iface a).err.setWidth 64)
  | .readCmd => (s.setProgram a rest).deliver a 0

/-- The next operation of agent `a`'s program, if one is left. -/
def hostMove (a : Nat) (s : State) : State :=
  match (s.host a).program with
  | [] => s
  | op :: rest => hostOp a op rest s

/-! ### The environment -/

/-- Construction has ended, with success or with a failure: the agents have started (60 R212; log entry 26). -/
def State.started (s : State) : Bool := s.constructed || s.constructFailed

/-- `PowerCollapse`: only when no command is in progress; every bank offset becomes a draw, and the block's own
state is left alone (45 R185). -/
def powerCollapse (s : State) : State :=
  match s.inProgress with
  | [] => { s.drawImage.2 with bank := [], image := s.drawImage.1 }.record .powerCollapse
  | _ :: _ => s

/-- The block at a successful construction over the same bank, environment and hosts (70 R221, 10 R42). The in-progress
set is empty before it as after it, since no agent moves before construction has ended (60 R212; log entry 26). -/
def constructedFrom (s : State) : State :=
  { State.reset with
    bank := s.bank, image := s.image, cfg := s.cfg, env := s.env, hosts := s.hosts, schedule := s.schedule }

/-- A failed construction, which ends construction for good (70 R221; log entry 25); its code goes to ERR of agent 1
(log entry 16), and every other register keeps its launch value (log entry 29). -/
def State.failConstruction (e : ErrCode) (s : State) : State :=
  { s.setErr 1 e with constructFailed := true }

/-- An outcome of construction (70 R221). -/
def constructAs (d : ConstructDraw) (s : State) : State :=
  match d with
  | .success => constructedFrom s
  | .allocationFailure => s.failConstruction .allocationFailure
  | .deviceAbsent => s.failConstruction .deviceAbsent

/-- Construction: nothing once construction has ended, with either outcome (log entry 25), refused on an ill-formed
configuration, else a draw (70 R221, 60 R203). -/
def construct (s : State) : State :=
  if s.started then s
  else if s.cfg.wellFormed then constructAs s.drawConstruct.1 s.drawConstruct.2
  else s.markRefused .illFormedConfiguration

/-- A launch before construction (70 R221). 10 R42 gives the block's values at a successful construction alone; that it
holds those of `State.reset` before it is the model's: DESIGN CHOICE, log entry 29. -/
def launchState : State := { State.reset with constructed := false }

/-! ### The next move -/

/-- A move: the body of a command, or anything else. -/
inductive Move where
  | run (i : Instr) (s : State)
  | quiet (s : State)
  deriving DecidableEq, Repr

/-- An agent among 1 .. HOST_AGENTS; agent 1 always is (20 R57). -/
def agentExists (p : Params) (a : Nat) : Bool :=
  a == 1 || (decide (1 ≤ a) && decide (a ≤ p.hostAgents))

/-- An agent's move: `finish` of its command in progress, else the next operation of its program. -/
def agentMove (a : Nat) (s : State) : Move :=
  match Sparse.find? s.inProgress a with
  | some w =>
    match decode w with
    | .ok i => .run i { s with turn := a }
    | .error _ => .quiet (finishIllegal w { s with turn := a })
  | none => .quiet (hostMove a s)

/-- The move the schedule names. An empty schedule moves nothing; a turn of no agent moves nothing, nor does one before
construction has ended (60 R212; log entries 8, 9, 26). -/
def nextMove (s : State) : Move :=
  match s.schedule with
  | [] => .quiet s
  | .agent a :: rest =>
    if s.started && agentExists s.cfg a then agentMove a { s with schedule := rest }
    else .quiet { s with schedule := rest }
  | .powerCollapse :: rest => .quiet (powerCollapse { s with schedule := rest })
  | .construct :: rest => .quiet (construct { s with schedule := rest })

/-- A command word in progress at agent 1, whose `finish` is the next move (log entry 10). -/
def placeCommand (w : Word) (s : State) : State :=
  { s with inProgress := Sparse.insert 1 w s.inProgress, schedule := .agent 1 :: s.schedule }

end Sys2Proof.Machine
end

