-- ==== Sys2Proof/Machine/Step.lean ====
section
/-! DEFINITION. One step of the block with its hosts and environment (20 R57, 70 R232). -/

namespace Sys2Proof.Machine

/-- One step: nothing once faulted or refused (10 R34), else the move the schedule names; a `finish` runs `exec`. -/
def step (s : State) : Host.Outcome State Fault Refusal :=
  match s.stuck? with
  | some o => o
  | none =>
    match nextMove s with
    | .run i t => exec i t
    | .quiet t => .next t

/-- The state whose next step runs the command word `w` (log entry 10). -/
def State.withFetchWord (s : State) (nbits w : Nat) : State :=
  placeCommand (BitVec.ofNat 32 (w % 2 ^ nbits)) s

end Sys2Proof.Machine
end

