-- ==== Sys2Proof/Machine/Assembler.lean ====
section
/-! DEFINITION. Assembler lines and pseudo-commands as host operations, and the operations refused by name
(30 R63, R69, R70). -/

namespace Sys2Proof.Machine

/-- The operand of an assembler line: a literal, or `RESn` (30 R69). -/
inductive AsmArg where
  | lit (v : DWord)
  | res (n : Fin 6)
  deriving DecidableEq, Repr

/-- An assembler line (30 R69), a pseudo-command (30 R70), or a request for something outside the block (30 R63). -/
inductive AsmLine where
  | cmd (i : Instr) (a0 a1 : Option AsmArg)
  | setRateClamped (r : AsmArg)
  | prepareEnable
  | postdivRoundtrip (i : AsmArg)
  | outside (op : OutsideOp)
  deriving DecidableEq, Repr

/-- `ARGk <- a`; an omitted argument leaves its register unchanged (30 R69). -/
def asmArg (k : ArgReg) : Option AsmArg → List HostOp
  | none => []
  | some (.lit v) => [.writeArg k v]
  | some (.res n) => [.copyRes n k]

/-- `MNEMONIC a0, a1` (30 R69). -/
def asmCmd (i : Instr) (a0 a1 : Option AsmArg) : List HostOp :=
  asmArg .arg0 a0 ++ asmArg .arg1 a1 ++ [.writeCmd (encode i)]

/-- The host operations of a line (30 R69, R70), or a refusal by name (30 R63, 60 R202). -/
def assemble : AsmLine → Except Refusal (List HostOp)
  | .cmd i a0 a1 => .ok (asmCmd i a0 a1)
  | .setRateClamped r => .ok (asmCmd .roundRate (some r) none ++ asmCmd .setRate (some (.res 0)) none)
  | .prepareEnable => .ok (asmCmd .prepare none none ++ [.writeCmdIfOk (encode .enable)])
  | .postdivRoundtrip i => .ok (asmCmd .postdivSet (some i) none ++ asmCmd .postdivGet none none)
  | .outside op => .error (.outsideBlock op)

end Sys2Proof.Machine
end

