-- ==== Sys2Proof/Safety.lean ====
section
/-! DEFINITION. What counts as a safe run and a final state (70 R232, R234), the invariants, and the terms in which
claims say what a command changes and what it leaves alone. -/

namespace Sys2Proof.Machine

/-! ### Runs -/

/-- No mark set and construction done: the state in which a command's body runs (10 R33, R34). -/
abbrev Ready (s : State) : Prop :=
  s.fault = none ∧ s.refused = none ∧ s.constructed = true

/-- Clean, as a launch premise (70 R234). -/
def State.clean (s : State) : Bool :=
  decide (s.fault = none) && decide (s.refused = none) && s.inProgress.isEmpty &&
  decide (s.postdivLock = .free) && decide (s.gpdivLock = .free) && decide (s.cacheStatus = .empty) &&
  s.ifaces.all (fun e => e.2.resv.toList.all (fun b => !b))

/-- An agent whose next operation is a start that is not enabled (60 R200.4). -/
def agentHeld (s : State) (a : Nat) : Bool :=
  match (s.host a).program with
  | .writeCmd w :: _ => mustHold a w s
  | .writeCmdIfOk w :: _ => decide ((s.iface a).err = 0) && mustHold a w s
  | _ => false

/-- Every agent has issued every command of its program, and none is in progress (70 R232). -/
def State.runEnded (s : State) : Bool :=
  s.hosts.all (fun e => e.2.program.isEmpty) && s.inProgress.isEmpty

/-- A state that may be final: no fault, no refusal, nothing in progress, no agent held (70 R232). -/
def State.mayBeFinal (s : State) : Bool :=
  decide (s.fault = none) && decide (s.refused = none) && s.inProgress.isEmpty &&
  s.hosts.all (fun e => !agentHeld s e.1)

/-- The final state of a run (70 R232). -/
def State.final (s : State) : Bool := s.runEnded && s.mayBeFinal

/-! ### Invariants -/

/-- Every list of the state is in its canonical form. -/
def State.canonical (s : State) : Bool :=
  Memory.wf s.image s.bank && Sparse.wf (fun _ => Iface.reset) s.ifaces &&
  Sparse.wf (fun _ => HostSide.idle) s.hosts && Sparse.sorted s.inProgress

/-- Each mux lock is held by exactly the agent whose command in progress takes it (10 R32, 20 R59). -/
def LocksMatch (s : State) : Prop :=
  (∀ a, s.postdivLock = .held a ↔
    ∃ w, Sparse.find? s.inProgress a = some w ∧ classOfWord w = .postdivMux) ∧
  (∀ a, s.gpdivLock = .held a ↔
    ∃ w, Sparse.find? s.inProgress a = some w ∧ classOfWord w = .gpdivMux)

/-- Before construction has ended no command is in progress (60 R212; log entry 26). -/
def AgentsAwaitConstruction (s : State) : Prop :=
  s.started = false → s.inProgress = []

/-! ### What a command changes -/

/-- What no command writes: the marks, construction, the launch image, the configuration, the hosts, the schedule. -/
def SameSetup (s t : State) : Prop :=
  t.fault = s.fault ∧ t.refused = s.refused ∧
  (t.constructed = s.constructed ∧ t.constructFailed = s.constructFailed) ∧ t.image = s.image ∧ t.cfg = s.cfg ∧
  t.hosts = s.hosts ∧ t.schedule = s.schedule ∧ t.turn = s.turn

/-- The runtime state and the state cache are as they were (10 R26 to R31). -/
def SameRuntime (s t : State) : Prop :=
  t.poweredOn = s.poweredOn ∧ t.locked = s.locked ∧ t.currentVcoRate = s.currentVcoRate ∧
  t.cache = s.cache ∧ t.cacheStatus = s.cacheStatus

/-- The running agent has left the in-progress set and its mux lock; nobody else has (20 R57, R59). -/
def LeavesProgress (s t : State) : Prop :=
  Sparse.find? t.inProgress s.turn = none ∧
  (∀ b, b ≠ s.turn → Sparse.find? t.inProgress b = Sparse.find? s.inProgress b) ∧
  t.postdivLock = (if s.postdivLock = .held s.turn then .free else s.postdivLock) ∧
  t.gpdivLock = (if s.gpdivLock = .held s.turn then .free else s.gpdivLock)

/-- Only the running agent's interface changes: ERR takes the code, the RES registers listed take their values and
become valid, the other RES registers and the arguments stay (10 R21 to R23, 30 R64). -/
def Reports (e : ErrCode) (rs : List (Fin 6 × Nat)) (s t : State) : Prop :=
  (∀ b, b ≠ s.turn → t.iface b = s.iface b) ∧
  (t.iface s.turn).arg0 = (s.iface s.turn).arg0 ∧ (t.iface s.turn).arg1 = (s.iface s.turn).arg1 ∧
  (t.iface s.turn).err = e.code ∧
  (∀ p ∈ rs, (t.iface s.turn).readRes p.1 = some (BitVec.ofNat 64 p.2)) ∧
  (∀ i : Fin 6, (∀ p ∈ rs, p.1 ≠ i) →
    (t.iface s.turn).res[i.val] = (s.iface s.turn).res[i.val] ∧
    (t.iface s.turn).resv[i.val] = (s.iface s.turn).resv[i.val])

/-- A completion (60 R200.1): the report, the end of the command, and the events recorded, CmdEnd last. -/
def Ends (op : Byte) (e : ErrCode) (rs : List (Fin 6 × Nat)) (evs : List Event) (s t : State) : Prop :=
  SameSetup s t ∧ LeavesProgress s t ∧ Reports e rs s t ∧
  t.history = s.history ++ (evs ++ [.cmdEnd s.turn op e])

/-- The runtime state, every byte of the bank and the environment's answers are as they were. -/
def Untouched (s t : State) : Prop :=
  SameRuntime s t ∧ (∀ off, t.stored off = s.stored off) ∧ t.env = s.env

/-- Every byte of the bank outside the registers listed is as it was. -/
def BytesKept (rs : List RegName) (s t : State) : Prop :=
  ∀ off, (∀ r ∈ rs, off ≠ s.cfg.offset r) → t.stored off = s.stored off

/-- Every named field outside those listed is as it was, the volatile ones apart (20 R46, R47). -/
def FieldsKept (as : List FieldName) (s t : State) : Prop :=
  ∀ a, a ∉ as → a ≠ .lock → a ≠ .running → t.field (s.cfg.fd a) = s.field (s.cfg.fd a)

/-- The runtime state but for `locked`, and the state cache, are as they were (10 R26, R28 to R31). -/
def SameButLocked (s t : State) : Prop :=
  t.poweredOn = s.poweredOn ∧ t.currentVcoRate = s.currentVcoRate ∧ t.cache = s.cache ∧
  t.cacheStatus = s.cacheStatus

/-- What a host's operation leaves of the hosts: the rest of its program, the values it read appended, no other host
changed (log entry 9). -/
def HostGets (a : Nat) (ops : List HostOp) (vs : List DWord) (s t : State) : Prop :=
  t.host a = ⟨ops, (s.host a).reads ++ vs⟩ ∧ ∀ b, b ≠ a → t.host b = s.host b

/-- One argument register of agent `a` holds `v`; nothing else of any interface changes (10 R21). -/
def ArgWritten (a : Nat) (k : ArgReg) (v : DWord) (s t : State) : Prop :=
  t.iface a = (match k with
    | .arg0 => { s.iface a with arg0 := v }
    | .arg1 => { s.iface a with arg1 := v }) ∧
  ∀ b, b ≠ a → t.iface b = s.iface b

/-! ### The events of a command -/

/-- The events of one lock poll and its outcome (44 R161, R162): reads of the lock register with a delay of 1000
between two of them, the lock bit 0 in all but the last, and 1 in the last exactly on a hit. -/
def Polled (p : Params) (hit : Bool) (evs : List Event) : Prop :=
  ∃ vs : List Byte, evs = (vs.map (Event.read (p.offset .lockStatus))).intersperse (.delay 1000) ∧
    (hit = true → ∃ k, k < 15 ∧ vs.map (p.fd .lock).extract = List.replicate k 0 ++ [1]) ∧
    (hit = false → vs.map (p.fd .lock).extract = List.replicate 15 0)

/-- The outcome of a poll is what the lock answers listed give: a hit where a 1 stands among the first 15, a miss where
those are 0 (20 R46, 44 R162). -/
def LockAnswers (answers : List Bool) (hit : Bool) : Prop :=
  (∀ k rest, k < 15 → answers = List.replicate k false ++ true :: rest → hit = true) ∧
  (∀ rest, answers = List.replicate 15 false ++ rest → hit = false)

/-- The events of one toggle of system-control (44 R165). -/
def toggleEvents (p : Params) : List Event :=
  [.write (p.offset .sysCtrl) p.sysctrlV1, .delay 5, .write (p.offset .sysCtrl) p.sysctrlV2, .delay 50]

/-- The events of one read-modify-write of a field: the byte read, and the byte written with the field replaced
(20 R47). -/
def MergeEvents (p : Params) (f : FieldDesc) (v : Nat) (evs : List Event) : Prop :=
  ∃ b, evs = [.read (p.offset f.reg) b, .write (p.offset f.reg) (f.merge v b)]

/-- The writes and delays among some events, in order: the offset of a write, the length of a delay. -/
def commitTrace : List Event → List (Nat ⊕ Rat)
  | [] => []
  | .write off _ :: rest => .inl off :: commitTrace rest
  | .delay us :: rest => .inr us :: commitTrace rest
  | _ :: rest => commitTrace rest

/-- The registers SET_RATE writes before the SSC block (43 R153). -/
def rateRegs : List RegName :=
  [.pllGlobal, .slewCtrl, .hsfreq, .oscTargetLo, .oscTargetHi, .inputDivOvr, .loopDivLo, .loopDivHi,
    .inputLoopRatio, .cpGain, .gmpCtrl, .anaTestCtrl, .fsmOvrCtrl, .phaseErrCtrl, .lockFilter, .proDlyRelock,
    .lockDetMode]

/-- An offset that the rate transaction does not write (43 R153). -/
def OutsideRate (p : Params) (off : Nat) : Prop :=
  (∀ r ∈ rateRegs, off ≠ p.offset r) ∧ (∀ n, off ≠ p.offset (.ssc n))

/-- The four captured registers (45 R180). -/
def capturedRegs : List RegName := [.vcoCntrl, .cpBias, .pllCntrl, .pixdiv]

/-- An offset that holds no volatile field (20 R45, R46). -/
def PlainOffset (p : Params) (r : RegName) : Prop :=
  p.offset r ≠ p.offset .lockStatus ∧ p.offset r ≠ p.offset .sysCtrl

/-- A byte of the cache by the register it was captured from (10 R30). -/
def Cache.byte (c : Cache) : RegName → Byte
  | .vcoCntrl => c.vcoCntrl
  | .cpBias => c.cpBias
  | .pllCntrl => c.pllCntrl
  | _ => c.pixdiv

end Sys2Proof.Machine
end

