-- ==== Sys2Proof/Certificates/Slice0/Obligations.lean ====
section
/-! DEFINITION. The statements for the provers, one per entry of OBLIGATIONS.json, in its order. -/

open Sys2Proof Sys2Proof.Machine

/-! ### Encoding -/

/-- The words of 30 R62 and R64, written out: opcode in bits 7:0, bits 31:8 zero. Rests on the spec's own decisions
D2, D49. -/
def Obligations.DecodesSpecWords : Prop :=
  decode 0x00000001#32 = .ok .multX100 ∧ decode 0x00000002#32 = .ok .gcd ∧ decode 0x00000003#32 = .ok .plan ∧
  decode 0x00000004#32 = .ok .sscCompute ∧ decode 0x00000010#32 = .ok .roundRate ∧
  decode 0x00000011#32 = .ok .setRate ∧ decode 0x00000012#32 = .ok .recalcRate ∧
  decode 0x00000020#32 = .ok .prepare ∧ decode 0x00000021#32 = .ok .unprepare ∧
  decode 0x00000022#32 = .ok .enable ∧ decode 0x00000023#32 = .ok .isEnabled ∧
  decode 0x00000030#32 = .ok .postdivSet ∧ decode 0x00000031#32 = .ok .postdivGet ∧
  decode 0x00000032#32 = .ok .gpdivSet ∧ decode 0x00000033#32 = .ok .gpdivGet ∧
  decode 0x00000034#32 = .ok .pixdivRoundRate ∧ decode 0x00000035#32 = .ok .pixdivSetRate ∧
  decode 0x00000036#32 = .ok .pixdivRecalcRate ∧ decode 0x00000040#32 = .ok .save ∧
  decode 0x00000041#32 = .ok .restore

/-- Decode and encode agree both ways, and a word that encodes no command is refused by the name of its reason (30
R62, R64, R65). Rests on the spec's own decisions D2, D4, D49. -/
def Obligations.DecodeEncodeAgree : Prop :=
  (∀ i : Instr, i.wellFormed = true → decode (encode i) = .ok i) ∧
  (∀ (w : Word) (i : Instr), decode w = .ok i ↔ w = encode i) ∧
  (∀ w : Word, w.toNat / 256 ≠ 0 → decode w = .error .reservedBits) ∧
  (∀ w : Word, w.toNat / 256 = 0 → (∀ i, w ≠ encode i) →
    decode w = .error (.reservedOpcode (BitVec.ofNat 8 w.toNat)))

/-! ### Steps, agents, hosts -/

/-- Once construction has ended, a step that finishes a command runs `exec` of the decoded command, with its agent
named in `turn`; and a word placed by `withFetchWord` is run by the very next step (20 R57, 60 R212; log entry 10).
Rests on the spec's own decision D37; log entries 9, 10, 11, 26 (the model's choice). -/
def Obligations.StepRunsDecodedCommand : Prop :=
  (∀ (s : State) (a : Nat) (w : Word) (i : Instr) (rest : List Turn),
    s.fault = none → s.refused = none → s.started = true → s.schedule = .agent a :: rest →
    agentExists s.cfg a = true →
    Sparse.find? s.inProgress a = some w → decode w = .ok i →
    step s = exec i { s with schedule := rest, turn := a }) ∧
  (∀ (s : State) (w : Nat) (i : Instr), s.fault = none → s.refused = none → s.started = true →
    decode (BitVec.ofNat 32 w) = .ok i →
    step (s.withFetchWord 32 w) =
      exec i { s with inProgress := Sparse.insert 1 (BitVec.ofNat 32 w) s.inProgress, turn := 1 })

/-- `start` of a command with nothing else in progress, issued unconditionally or on the condition that ERR is OK:
CmdStart, all valid bits cleared, the word in progress, the mux lock of its class taken, nothing else changed (20 R57
to R59, 10 R22, R32, 30 R70). Rests on the spec's own decisions D37, D46, D52; log entries 9, 22, 26 (the model's
choice). -/
def Obligations.StartEntersCommand : Prop :=
  ∀ (s : State) (a : Nat) (w : Word) (i : Instr) (ops : List HostOp) (rest : List Turn),
    s.fault = none → s.refused = none → s.started = true → s.inProgress = [] → s.postdivLock = .free →
    s.gpdivLock = .free → s.schedule = .agent a :: rest → agentExists s.cfg a = true →
    ((s.host a).program = .writeCmd w :: ops ∨
      ((s.host a).program = .writeCmdIfOk w :: ops ∧ (s.iface a).err = 0)) → decode w = .ok i →
    ∃ t, step s = .next t ∧ t.inProgress = [(a, w)] ∧ t.history = s.history ++ [.cmdStart a (opcode i)] ∧
      (∀ b, b ≠ a → t.iface b = s.iface b ∧ t.host b = s.host b) ∧
      t.iface a = { s.iface a with resv := #v[false, false, false, false, false, false] } ∧
      t.host a = { s.host a with program := ops } ∧
      t.postdivLock = (if i = .postdivSet ∨ i = .postdivGet then .held a else .free) ∧
      t.gpdivLock = (if i = .gpdivSet ∨ i = .gpdivGet then .held a else .free) ∧
      Untouched s t ∧ t.bank = s.bank ∧ t.image = s.image ∧ t.cfg = s.cfg ∧ t.schedule = rest ∧
      t.fault = none ∧ t.refused = none ∧ t.constructed = s.constructed

/-- A second command of one mux holds while the first is in progress: only the turn is used up (20 R58.2, 60 R200.4).
Rests on the spec's own decisions D37, D40; log entries 9, 22, 26 (the model's choice). -/
def Obligations.SameMuxStartHolds : Prop :=
  ∀ (s : State) (a b : Nat) (v w : Word) (c d : Instr) (ops : List HostOp) (rest : List Turn),
    s.fault = none → s.refused = none → s.started = true → s.schedule = .agent a :: rest →
    agentExists s.cfg a = true →
    Sparse.find? s.inProgress a = none → (s.host a).program = .writeCmd w :: ops →
    b ≠ a → Sparse.find? s.inProgress b = some v → decode v = .ok d → decode w = .ok c →
    ((c ∈ [Instr.postdivSet, .postdivGet] ∧ d ∈ [Instr.postdivSet, .postdivGet]) ∨
      (c ∈ [Instr.gpdivSet, .gpdivGet] ∧ d ∈ [Instr.gpdivSet, .gpdivGet])) →
    step s = .next { s with schedule := rest }

/-- An overlap that 20 R58 does not permit is fault Unserialized: neither command is pure, and they are not one
command of each mux (20 R58.3 and R58.4, 44 R171). Two commands of one mux hold instead. Beside the mark only the turn
and the issuing operation are used up; that the start has none of its effects is the model's choice (log entry 28).
Rests on the spec's own decision D37; log entries 7, 9, 22, 26, 28 (the model's choice). -/
def Obligations.UnpermittedOverlapFaults : Prop :=
  ∀ (s : State) (a b : Nat) (v w : Word) (c d : Instr) (ops : List HostOp) (rest : List Turn),
    s.fault = none → s.refused = none → s.started = true → s.schedule = .agent a :: rest →
    agentExists s.cfg a = true →
    Sparse.find? s.inProgress a = none → (s.host a).program = .writeCmd w :: ops →
    b ≠ a → s.inProgress = [(b, v)] → decode v = .ok d → decode w = .ok c → LocksMatch s →
    c ∉ [Instr.multX100, .gcd, .plan, .sscCompute, .roundRate, .pixdivRoundRate] →
    d ∉ [Instr.multX100, .gcd, .plan, .sscCompute, .roundRate, .pixdivRoundRate] →
    (c ∉ [Instr.postdivSet, .postdivGet, .gpdivSet, .gpdivGet] ∨
      d ∉ [Instr.postdivSet, .postdivGet, .gpdivSet, .gpdivGet] ∨
      ((c ∈ [Instr.postdivSet, .postdivGet] ↔ d ∈ [Instr.gpdivSet, .gpdivGet]) ∧
        (s.cfg.offset .vcoCntrl = s.cfg.offset .gpdivReg ∨ s.cfg.offset .cpBias = s.cfg.offset .gpdivReg ∨
          s.cfg.offset s.cfg.subrangeReg.reg = s.cfg.offset .gpdivReg))) →
    ∃ t, step s = .next t ∧ t.host a = { s.host a with program := ops } ∧ (∀ b, b ≠ a → t.host b = s.host b) ∧
      t = { s with schedule := rest, hosts := t.hosts, fault := some .unserialized }

/-- Overlaps that 20 R58 permits: every other command in progress meets case 1 or case 3, and the start happens. Rests
on the spec's own decision D37; log entries 9, 22, 26 (the model's choice). -/
def Obligations.PermittedOverlapStarts : Prop :=
  ∀ (s : State) (a : Nat) (w : Word) (c : Instr) (ops : List HostOp) (rest : List Turn),
    s.fault = none → s.refused = none → s.started = true → s.schedule = .agent a :: rest →
    agentExists s.cfg a = true →
    Sparse.find? s.inProgress a = none → (s.host a).program = .writeCmd w :: ops → decode w = .ok c → LocksMatch s →
    (∀ e ∈ s.inProgress, ∃ d, decode e.2 = .ok d ∧
      (c ∈ [Instr.multX100, .gcd, .plan, .sscCompute, .roundRate, .pixdivRoundRate] ∨
        d ∈ [Instr.multX100, .gcd, .plan, .sscCompute, .roundRate, .pixdivRoundRate] ∨
        (((c ∈ [Instr.postdivSet, .postdivGet] ∧ d ∈ [Instr.gpdivSet, .gpdivGet]) ∨
            (c ∈ [Instr.gpdivSet, .gpdivGet] ∧ d ∈ [Instr.postdivSet, .postdivGet])) ∧
          s.cfg.offset .vcoCntrl ≠ s.cfg.offset .gpdivReg ∧ s.cfg.offset .cpBias ≠ s.cfg.offset .gpdivReg ∧
          s.cfg.offset s.cfg.subrangeReg.reg ≠ s.cfg.offset .gpdivReg))) →
    ∃ t, step s = .next t ∧ t.fault = none ∧ Sparse.find? t.inProgress a = some w ∧
      (∀ b, b ≠ a → Sparse.find? t.inProgress b = Sparse.find? s.inProgress b) ∧
      t.history = s.history ++ [.cmdStart a (opcode c)] ∧ Untouched s t

/-- A faulted or refused block executes nothing (10 R34, 60 R200). Rests on the spec's own decisions D40, D43; log
entry 7 (the model's choice). -/
def Obligations.StuckBlockRunsNothing : Prop :=
  (∀ (s : State) (r : Fault), s.fault = some r → step s = .fault r ∧ ∀ i, exec i s = .fault r) ∧
  (∀ (s : State) (r : Refusal), s.fault = none → s.refused = some r →
    step s = .refused r ∧ ∀ i, exec i s = .refused r)

/-- An illegal word runs `start` and then ends with IllegalCommand and no other effect (30 R65). Rests on the spec's
own decisions D4, D37; log entries 9, 14, 15 (the model's choice). -/
def Obligations.IllegalWordStartsAndEnds : Prop :=
  ∀ (s : State) (a : Nat) (w : Word) (ops : List HostOp) (rest : List Turn),
    Ready s → s.inProgress = [] → LocksMatch s → s.schedule = .agent a :: .agent a :: rest →
    agentExists s.cfg a = true → (s.host a).program = .writeCmd w :: ops →
    (w.toNat / 256 ≠ 0 ∨
      w.toNat % 256 ∉ [0x01, 0x02, 0x03, 0x04, 0x10, 0x11, 0x12, 0x20, 0x21, 0x22, 0x23, 0x30, 0x31, 0x32, 0x33, 0x34,
        0x35, 0x36, 0x40, 0x41]) →
    ∃ t u op, step s = .next t ∧ step t = .next u ∧
      (∀ n : Fin 6, (t.iface a).resv[n.val] = false) ∧ t.inProgress = [(a, w)] ∧
      (u.iface a).err = 0x05 ∧ (∀ n : Fin 6, (u.iface a).resv[n.val] = false) ∧
      (u.iface a).arg0 = (s.iface a).arg0 ∧ (u.iface a).arg1 = (s.iface a).arg1 ∧
      (∀ b, b ≠ a → u.iface b = s.iface b) ∧
      u.history = s.history ++ [.cmdStart a op, .cmdEnd a op .illegalCommand] ∧
      u.postdivLock = s.postdivLock ∧ u.gpdivLock = s.gpdivLock ∧ u.inProgress = [] ∧
      Untouched s u ∧ u.fault = none ∧ u.refused = none

/-- What a host does at its own interface besides a start: it writes an argument register, copies a RES register into
one, reads a RES register, ERR or CMD, and skips a conditional issue while ERR is not OK (10 R20 to R23; 30 R68 to
R70; 70 R231). A valid RES gives its value, an invalid one is fault ResultUnwritten, CMD reads 0; nothing else
changes. Rests on the spec's own decisions D2, D3, D37, D46, D52; log entries 7, 9, 26 (the model's choice). -/
def Obligations.HostReadsResults : Prop :=
  ∀ (s : State) (a : Nat) (n : Fin 6) (k : ArgReg) (ops : List HostOp) (rest : List Turn),
    s.fault = none → s.refused = none → s.started = true → s.schedule = .agent a :: rest →
    agentExists s.cfg a = true → Sparse.find? s.inProgress a = none →
    ((s.host a).program = .readRes n :: ops → (s.iface a).resv[n.val] = true →
      ∃ t, step s = .next t ∧ HostGets a ops [(s.iface a).res[n.val]] s t ∧
        t = { s with schedule := rest, hosts := t.hosts }) ∧
    ((s.host a).program = .copyRes n k :: ops → (s.iface a).resv[n.val] = true →
      ∃ t, step s = .next t ∧ HostGets a ops [(s.iface a).res[n.val]] s t ∧
        ArgWritten a k (s.iface a).res[n.val] s t ∧
        t = { s with schedule := rest, hosts := t.hosts, ifaces := t.ifaces }) ∧
    ((s.host a).program = .readRes n :: ops ∨ (s.host a).program = .copyRes n k :: ops →
      (s.iface a).resv[n.val] = false →
      ∃ t, step s = .next t ∧ HostGets a ops [] s t ∧
        t = { s with schedule := rest, hosts := t.hosts, fault := some .resultUnwritten }) ∧
    (∀ v, (s.host a).program = .writeArg k v :: ops →
      ∃ t, step s = .next t ∧ HostGets a ops [] s t ∧ ArgWritten a k v s t ∧
        t = { s with schedule := rest, hosts := t.hosts, ifaces := t.ifaces }) ∧
    ((s.host a).program = .readErr :: ops →
      ∃ t, step s = .next t ∧ HostGets a ops [(s.iface a).err.setWidth 64] s t ∧
        t = { s with schedule := rest, hosts := t.hosts }) ∧
    ((s.host a).program = .readCmd :: ops →
      ∃ t, step s = .next t ∧ HostGets a ops [0] s t ∧ t = { s with schedule := rest, hosts := t.hosts }) ∧
    (∀ w, (s.host a).program = .writeCmdIfOk w :: ops → (s.iface a).err ≠ 0 →
      ∃ t, step s = .next t ∧ HostGets a ops [] s t ∧ t = { s with schedule := rest, hosts := t.hosts })

/-- The assembler's pseudo-commands, and the operations it refuses by name (30 R63, R69, R70). Rests on the spec's own
decision D52. -/
def Obligations.AssemblerExpands : Prop :=
  (∀ r : DWord, assemble (.setRateClamped (.lit r)) =
    .ok [.writeArg .arg0 r, .writeCmd 0x00000010#32, .copyRes 0 .arg0, .writeCmd 0x00000011#32]) ∧
  assemble .prepareEnable = .ok [.writeCmd 0x00000020#32, .writeCmdIfOk 0x00000022#32] ∧
  (∀ i : DWord, assemble (.postdivRoundtrip (.lit i)) =
    .ok [.writeArg .arg0 i, .writeCmd 0x00000030#32, .writeCmd 0x00000031#32]) ∧
  (∀ op : OutsideOp, assemble (.outside op) = .error (.outsideBlock op))

/-! ### Construction, collapse, what no command writes -/

/-- No command writes an argument register (10 R21). Rests on the spec's own decision D2. -/
def Obligations.CommandsOnlyReadArguments : Prop :=
  ∀ (i : Instr) (s t : State), exec i s = .next t →
    ∀ a, (t.iface a).arg0 = (s.iface a).arg0 ∧ (t.iface a).arg1 = (s.iface a).arg1

/-- A step of one agent leaves the interfaces of the others alone, and no agent moves before construction has ended
(60 R212, 30 R68). Rests on the spec's own decisions D2, D37; log entries 9, 26 (the model's choice). -/
def Obligations.AgentsKeepTheirInterfaces : Prop :=
  (∀ (s t : State) (a : Nat) (rest : List Turn), s.schedule = .agent a :: rest → step s = .next t →
    ∀ b, b ≠ a → t.iface b = s.iface b ∧ t.host b = s.host b) ∧
  (∀ (s : State) (a : Nat) (rest : List Turn), s.fault = none → s.refused = none → s.constructed = false →
    s.constructFailed = false → s.schedule = .agent a :: rest → step s = .next { s with schedule := rest })

/-- While the block is not constructed every command ends with DeviceAbsent and no other effect (10 R33, 60 R206.2).
Rests on the spec's own decisions D42, D47; log entry 13 (the model's choice). -/
def Obligations.DeviceAbsentBeforeConstruction : Prop :=
  ∀ (i : Instr) (s : State), s.fault = none → s.refused = none → s.constructed = false →
    ∃ t, exec i s = .next t ∧ Ends (opcode i) .deviceAbsent [] [] s t ∧ Untouched s t

/-- The three outcomes of construction, and the refusal of an ill-formed configuration (70 R221, 60 R203, 10 R42). A
failure is final: a construct turn after construction has ended does nothing. That a failure's code goes to ERR of
agent 1 and that the other registers stay is the model's choice (log entries 16, 29). Rests on the spec's own
decisions D6, D37, D41, D42; log entries 4, 7, 16, 25, 26, 27, 29 (the model's choice). -/
def Obligations.ConstructionOutcomes : Prop :=
  ∀ (s : State) (rest : List Turn), s.fault = none → s.refused = none → s.schedule = .construct :: rest →
    (s.constructed = true ∨ s.constructFailed = true → step s = .next { s with schedule := rest }) ∧
    (s.constructed = false → s.constructFailed = false → s.cfg.wellFormed = false →
      step s = .next { s with schedule := rest, refused := some .illFormedConfiguration }) ∧
    (s.constructed = false → s.constructFailed = false → s.cfg.wellFormed = true →
      ∀ d ds, s.env.construct = d :: ds → ∃ t, step s = .next t ∧
      (∀ off, t.stored off = s.stored off) ∧ t.cfg = s.cfg ∧ t.schedule = rest ∧ t.hosts = s.hosts ∧
      t.env = { s.env with construct := ds } ∧
      (d = .success → t.constructed = true ∧ t.constructFailed = false ∧ t.poweredOn = false ∧ t.locked = false ∧
        t.currentVcoRate = 0 ∧ t.cacheStatus = .empty ∧ t.postdivLock = .free ∧ t.gpdivLock = .free ∧
        t.fault = none ∧ t.refused = none ∧ t.history = [] ∧ t.inProgress = [] ∧
        ∀ a, (t.iface a).arg0 = 0 ∧ (t.iface a).arg1 = 0 ∧ (t.iface a).err = 0 ∧
          ∀ n : Fin 6, (t.iface a).resv[n.val] = false) ∧
      (d = .allocationFailure → t.iface 1 = { s.iface 1 with err := 0x03 } ∧ (∀ b, b ≠ 1 → t.iface b = s.iface b) ∧
        t = { s with schedule := rest, ifaces := t.ifaces, env := t.env, constructFailed := true }) ∧
      (d = .deviceAbsent → t.iface 1 = { s.iface 1 with err := 0x04 } ∧ (∀ b, b ≠ 1 → t.iface b = s.iface b) ∧
        t = { s with schedule := rest, ifaces := t.ifaces, env := t.env, constructFailed := true }))

/-- What a successful construction leaves, where the spec gives the value (10 R42). Rests on the spec's own decision
D41. -/
def Obligations.ResetLeavesStatedValues : Prop :=
  State.reset.poweredOn = false ∧ State.reset.locked = false ∧ State.reset.currentVcoRate = 0 ∧
  State.reset.cacheStatus = .empty ∧ State.reset.postdivLock = .free ∧ State.reset.gpdivLock = .free ∧
  State.reset.constructed = true ∧ State.reset.fault = none ∧ State.reset.refused = none ∧
  State.reset.history = [] ∧ State.reset.inProgress = [] ∧
  ∀ a, (State.reset.iface a).arg0 = 0 ∧ (State.reset.iface a).arg1 = 0 ∧ (State.reset.iface a).err = 0 ∧
    ∀ n : Fin 6, (State.reset.iface a).resv[n.val] = false

/-- A power collapse replaces the bank's contents by the environment's and records itself, and changes nothing else;
it does not occur while a command is in progress (45 R185). Rests on the spec's own decision D51; log entries 3, 4, 9
(the model's choice). -/
def Obligations.PowerCollapseLosesBankOnly : Prop :=
  ∀ (s : State) (rest : List Turn), s.fault = none → s.refused = none → s.schedule = .powerCollapse :: rest →
    (s.inProgress = [] → ∃ t, step s = .next t ∧
      t = { s with schedule := rest, bank := [], image := t.image, env := t.env,
                   history := s.history ++ [.powerCollapse] } ∧
      (∀ im ims, s.env.images = im :: ims → ∀ off, t.stored off = imageByte im off)) ∧
    (s.inProgress ≠ [] → step s = .next { s with schedule := rest })

/-- The configuration never changes, construction is never undone, a failed one stays failed, and on a constructed
block events are only appended (70 R221, R222, 10 R35). Rests on the spec's own decisions D41, D42, D44; log entries
9, 25 (the model's choice). -/
def Obligations.ConfigurationAndHistoryStand : Prop :=
  ∀ s t : State, step s = .next t →
    t.cfg = s.cfg ∧ (s.constructed = true → t.constructed = true ∧ ∃ l, t.history = s.history ++ l) ∧
    (s.constructed = false → s.constructFailed = true → t.constructed = false ∧ t.constructFailed = true)

/-- Which commands write the runtime state and the cache (10 R26 to R28, R30, R31; 44 R170). Rests on the spec's own
decisions D21, D35, D41; the spec's own derivations in R170; log entry 25 (the model's choice). -/
def Obligations.RuntimeStateWriters : Prop :=
  ∀ (i : Instr) (s t : State), exec i s = .next t →
    (t.poweredOn ≠ s.poweredOn →
      (i = .prepare ∧ s.poweredOn = false) ∨ (i = .unprepare ∧ s.poweredOn = true)) ∧
    (t.locked ≠ s.locked → i ∈ [Instr.setRate, .prepare, .unprepare, .isEnabled, .save, .restore]) ∧
    (t.currentVcoRate ≠ s.currentVcoRate → i ∈ [Instr.setRate, .restore]) ∧
    (t.cache ≠ s.cache → i = .save) ∧
    (t.cacheStatus ≠ s.cacheStatus →
      (i = .save ∧ t.cacheStatus = .valid) ∨ (i = .restore ∧ t.cacheStatus = .consumed)) ∧
    t.constructed = s.constructed ∧ t.constructFailed = s.constructFailed

/-! ### The bank and its fields -/

/-- A field write (20 R47): one write when the field fills the byte, else a read of the byte and a write of it with
the field's bits replaced by the value, truncated, and every other bit as read. What is read is the stored byte but
for the volatile bits at LOCK_STATUS's and SYS_CTRL's offsets (20 R46). No other byte and no other state changes.
Rests on the spec's own decisions D5, D7; log entry 12 (the model's choice). -/
def Obligations.FieldWriteReadModifyWrite : Prop :=
  ∀ (f : FieldDesc) (v : Nat) (s : State), f.inByte = true →
    let off := s.cfg.offset f.reg
    let c := (s.regRead f.reg).1
    ∃ b : Byte, (s.fieldWrite f v).stored off = b ∧ f.extract b = v % 2 ^ f.width ∧
      (f.width = 8 → (s.fieldWrite f v).history = s.history ++ [.write off b] ∧ (s.fieldWrite f v).env = s.env) ∧
      (f.width < 8 → (s.fieldWrite f v).history = s.history ++ [.read off c, .write off b] ∧
        (s.fieldWrite f v).env = (s.regRead f.reg).2.env ∧
        ∀ k, k < f.lsb ∨ f.lsb + f.width ≤ k → b.getLsbD k = c.getLsbD k) ∧
      (∀ k, (off = s.cfg.offset .lockStatus → (s.cfg.fd .lock).mask.getLsbD k = false) →
        (off = s.cfg.offset .sysCtrl → (s.cfg.fd .running).mask.getLsbD k = false) →
        c.getLsbD k = (s.stored off).getLsbD k) ∧
      (∀ o, o ≠ off → (s.fieldWrite f v).stored o = s.stored o) ∧
      SameSetup s (s.fieldWrite f v) ∧ SameRuntime s (s.fieldWrite f v) ∧ (s.fieldWrite f v).ifaces = s.ifaces

/-- A read of a volatile field gives the environment's answer, whatever the bank holds, and leaves the bank alone; a
read of any other named field gives what the bank holds (20 R45, R46). Rests on the spec's own decision D5; log
entries 4, 12 (the model's choice). -/
def Obligations.VolatileReadsAreDraws : Prop :=
  ∀ s : State, s.cfg.wellFormed = true →
    (∀ d ds, s.env.lock = d :: ds → (s.fieldRead (s.cfg.fd .lock)).1 = (if d then 1 else 0)) ∧
    (∀ d ds, s.env.running = d :: ds → (s.fieldRead (s.cfg.fd .running)).1 = (if d then 1 else 0)) ∧
    (∀ a, a ≠ .lock → a ≠ .running → (s.fieldRead (s.cfg.fd a)).1 = s.field (s.cfg.fd a)) ∧
    (∀ a off, (s.fieldRead (s.cfg.fd a)).2.stored off = s.stored off)

/-! ### The planner -/

/-- MULT_X100 (40 R87): `q` whole reference clocks and `k` quarters, each quarter closed at its lower boundary. Rests
on the spec's own decisions D14, D15. -/
def Obligations.MultX100Result : Prop :=
  ∀ s : State, Ready s → ∃ t q r k, s.arg0 = 19200000 * q + r ∧ r < 19200000 ∧
    k ≤ 3 ∧ k * 4800000 ≤ r ∧ r < (k + 1) * 4800000 ∧
    exec .multX100 s = .next t ∧
    Ends 0x01 .ok [(0, 100 * q + 25 * k), (1, r - k * 4800000)] [] s t ∧ Untouched s t

/-- GCD gives the greatest common divisor (40 R88). -/
def Obligations.GcdResult : Prop :=
  ∀ s : State, Ready s → ∃ t, exec .gcd s = .next t ∧
    Ends 0x02 .ok [(0, Nat.gcd s.arg0 s.arg1)] [] s t ∧ Untouched s t

/-- PLAN with an index in range (40 R81, R86, R89 to R91, R93): the lookups use the line rate, the ratio the target.
Rests on the spec's own decisions D8, D11, D12, D13, D48; log entry 24 (the model's choice). -/
def Obligations.PlanResult : Prop :=
  ∀ s : State, Ready s → s.arg1 ≤ 5 → ∃ t, exec .plan s = .next t ∧ Untouched s t ∧
    let line := s.arg0 / 2 ^ s.arg1
    let b := 2 * line / 1000000
    let r := (4 * s.arg0 + 9600000) / 19200000 % 4096
    Ends 0x03 .ok
      [(0, (rangeSelect s.cfg b).toNat),
        (1, if line / 1000000 ≤ 1000 then s.cfg.oscCodeA.toNat
            else if line / 1000000 ≤ 1500 then s.cfg.oscCodeB.toNat else 0),
        (2, r), (3, if 1500 ≤ b ∧ b ≤ 2500 then 0 else 1), (4, r % 64), (5, r / 64)] [] s t

/-- An operand out of range is InvalidDividerIndex, with no access and no change (60 R204, R206.6; 40 R93, 42 R126,
R130). Rests on the spec's own decisions D28, D47, D48. -/
def Obligations.OutOfRangeIndexRejected : Prop :=
  ∀ s : State, Ready s →
    (5 < s.arg1 → ∃ t, exec .plan s = .next t ∧ Ends 0x03 .invalidDividerIndex [] [] s t ∧ Untouched s t) ∧
    (5 < s.arg0 → ∃ t, exec .postdivSet s = .next t ∧ Ends 0x30 .invalidDividerIndex [] [] s t ∧ Untouched s t) ∧
    (7 < s.arg0 → ∃ t, exec .gpdivSet s = .next t ∧ Ends 0x32 .invalidDividerIndex [] [] s t ∧ Untouched s t)

/-- The two band lookups (40 R83, R85; 42 R122, R123): below the table the first code, else the code of the band that
is closed below and open above, the last band running to infinity; and the worked band of the source. Rests on the
spec's own decisions D10, D27; log entry 24 (the model's choice). -/
def Obligations.BandLookups : Prop :=
  ∀ p : Params, p.wellFormed = true →
    (∀ b, b < 80 → (p.hsfreqTable.head?.map Band.code) = some (rangeSelect p b)) ∧
    (∀ (b k : Nat) (h : k < p.hsfreqTable.length), p.hsfreqTable[k].lo ≤ b →
      (∀ h' : k + 1 < p.hsfreqTable.length, b < p.hsfreqTable[k + 1].lo) →
      rangeSelect p b = p.hsfreqTable[k].code) ∧
    (∀ b, 2400 ≤ b → b < 2450 → rangeSelect p b = 0x47) ∧
    (∀ b x rest, p.subrangeTable = x :: rest → b < x.lo → subRange p b = x.code) ∧
    (∀ (b k : Nat) (h : k < p.subrangeTable.length), p.subrangeTable[k].lo ≤ b →
      (∀ h' : k + 1 < p.subrangeTable.length, b < p.subrangeTable[k + 1].lo) →
      subRange p b = p.subrangeTable[k].code)

/-- The ratio's two fields reproduce the target to half a step of the reference clock, up to the bound at which the
12-bit mask wraps it (40 R89, R90, R92). Rests on the spec's own decision D13; the spec's own derivations in R92. -/
def Obligations.LoopRatioReproducesTarget : Prop :=
  ∀ t : Nat,
    (t < 19658400000 → t ≤ loopRate (loopLow (loopDiv t)) (loopHigh (loopDiv t)) + 2400000 ∧
      loopRate (loopLow (loopDiv t)) (loopHigh (loopDiv t)) ≤ t + 2400000) ∧
    (19658400000 ≤ t → loopRate (loopLow (loopDiv t)) (loopHigh (loopDiv t)) + 2400000 < t)

/-! ### Spread-spectrum parameters -/

/-- SSC_COMPUTE inside the exact domain (41 R101 to R106, R111). Rests on the spec's own decisions D15, D16. -/
def Obligations.SscComputeResult : Prop :=
  ∀ s : State, Ready s → s.arg0 < 5404319539200000 → ∃ t, exec .sscCompute s = .next t ∧ Untouched s t ∧
    let q := s.arg0 / 19200000
    let k := s.arg0 % 19200000 / 4800000
    let rem := s.arg0 % 4800000
    let peak := (100 * q + 25 * k) * 5000 * 2 ^ 17 / 100000000
    let fden := 19200000 / Nat.gcd s.arg0 19200000
    Ends 0x04 .ok
      [(0, peak), (1, peak * 31500 * 2 ^ 10 / 19200000), (2, (4 * q + k + (2 ^ 64 - 32)) % 2 ^ 64), (3, fden),
        (4, rem * 2 ^ 17 / 19200000), (5, rem * 2 ^ 17 % 19200000 * fden / 19200000)] [] s t

/-- Inside the exact domain every product of the formulas is below 2^64 (41 R107). Rests on the spec's own derivations
in R107. -/
def Obligations.SscProductsFit : Prop :=
  ∀ v, v < 5404319539200000 →
    (multX100 v).1 * 5000 * 2 ^ 17 < 2 ^ 64 ∧ sscPeak (multX100 v).1 * 31500 * 2 ^ 10 < 2 ^ 64 ∧
    (multX100 v).1 * 4 < 2 ^ 64 ∧ (multX100 v).2 * 2 ^ 17 < 2 ^ 64 ∧
    sscR2 (multX100 v).2 * sscFracDen v < 2 ^ 64

/-- The fractional denominator is the reference clock over its greatest common divisor with the rate, exactly
(41 R104). -/
def Obligations.FracDenDivides : Prop :=
  (∀ v, sscFracDen v * Nat.gcd v 19200000 = 19200000 ∧ 1 ≤ sscFracDen v ∧ sscFracDen v ≤ 19200000) ∧
  sscFracDen 0 = 1

/-- A rate outside the exact domain is refused before the body: the mark and nothing else (41 R107, R111; 43 R155; 45
R182; 60 R200.3, R202, R206). Rests on the spec's own decisions D22, D35, D40; the spec's own derivations in R107; log
entry 7 (the model's choice). -/
def Obligations.OutOfDomainRefused : Prop :=
  ∀ s : State, Ready s →
    (5404319539200000 ≤ s.arg0 →
      exec .sscCompute s = .next { s with refused := some .sscOutOfExactDomain }) ∧
    (s.cfg.sscEnabled = true → 5404319539200000 ≤ s.arg0 →
      exec .setRate s = .next { s with refused := some .sscOutOfExactDomain }) ∧
    (s.cfg.sscEnabled = true → s.cacheStatus ≠ .empty → 5404319539200000 ≤ s.cache.rate.toNat →
      exec .restore s = .next { s with refused := some .sscOutOfExactDomain })

/-! ### Rates -/

/-- ROUND_RATE (43 R150). -/
def Obligations.RoundRateClamps : Prop :=
  ∀ s : State, Ready s → ∃ t, exec .roundRate s = .next t ∧
    Ends 0x10 .ok [(0, min (max s.arg0 1000000000) 2000000000)] [] s t ∧ Untouched s t

/-- SET_RATE completes, commits the requested rate, clears `locked`, and writes no byte outside the registers of its
commit sequence (43 R154, R155). Rests on the spec's own decisions D19, D20, D22; log entry 12 (the model's choice).
-/
def Obligations.SetRateCompletes : Prop :=
  ∀ s : State, Ready s → (s.cfg.sscEnabled = true → s.arg0 < 5404319539200000) →
    ∃ t evs, exec .setRate s = .next t ∧ Ends 0x11 .ok [] evs s t ∧
      t.currentVcoRate = (s.iface s.turn).arg0 ∧ t.locked = false ∧ t.poweredOn = s.poweredOn ∧
      t.cache = s.cache ∧ t.cacheStatus = s.cacheStatus ∧
      ∀ off, OutsideRate s.cfg off → t.stored off = s.stored off

/-- The codes SET_RATE leaves in the bank, for the post-divider index its decode finds; every other named field stays
(43 R152, R153, R155; 41 R110). Rests on the spec's own decisions D17, D19, D20, D22, D26, D45; log entries 20, 21
(the model's choice). -/
def Obligations.SetRateProgramsFields : Prop :=
  ∀ s t : State, Ready s → s.cfg.wellFormed = true → (s.cfg.sscEnabled = true → s.arg0 < 5404319539200000) →
    exec .setRate s = .next t →
    let idx := (decodePattern s.cfg.postdivTable (s.field (s.cfg.fd .vcoRange)) (s.field (s.cfg.fd .cpBias))).1
    let line := s.arg0 / 2 ^ idx
    let b := 2 * line / 1000000
    let r := (4 * s.arg0 + 9600000) / 19200000 % 4096
    t.field (s.cfg.fd .pllEn) = 1 ∧ t.field (s.cfg.fd .slew) = s.cfg.srSlewVal.toNat ∧
    t.field (s.cfg.fd .hsfreq) = (rangeSelect s.cfg b).toNat ∧
    t.field (s.cfg.fd .oscLo) = (oscTarget s.cfg (line / 1000000)).toNat % 256 ∧
    t.field (s.cfg.fd .oscHi) = (oscTarget s.cfg (line / 1000000)).toNat / 256 ∧
    t.field (s.cfg.fd .loopLo) = r % 64 ∧ t.field (s.cfg.fd .loopHi) = r / 64 ∧
    t.field (s.cfg.fd .fsmOvr) = (if 1500 ≤ b ∧ b ≤ 2500 then 0 else 1) ∧
    (∀ reg l l1 w l2, (reg, l) ∈ s.cfg.srLists → l = l1 ++ w :: l2 → (∀ w' ∈ l2, w'.fd reg ≠ w.fd reg) →
      t.field (w.fd reg) = w.value.toNat % 2 ^ w.width) ∧
    (s.cfg.sscEnabled = true → ∀ l1 e l2, s.cfg.sscByteMap = l1 ++ e :: l2 → (∀ e' ∈ l2, e'.fd ≠ e.fd) →
      t.field e.fd = (sscCompute s.arg0).value e.src / 2 ^ e.shift % 2 ^ e.width) ∧
    FieldsKept [.pllEn, .slew, .hsfreq, .oscLo, .oscHi, .loopLo, .loopHi, .fsmOvr] s t

/-- The commit order S1 to S16: the offsets written, and the nonzero delays, in order (43 R153, 20 R53). Rests on the
spec's own decisions D19, D20; log entry 17 (the model's choice). -/
def Obligations.SetRateCommitOrder : Prop :=
  ∀ s : State, Ready s → (s.cfg.sscEnabled = true → s.arg0 < 5404319539200000) →
    ∃ t evs, exec .setRate s = .next t ∧ Ends 0x11 .ok [] evs s t ∧
      commitTrace evs =
        (List.zip
          [[RegName.pllGlobal], [.slewCtrl], [.hsfreq], [.oscTargetLo, .oscTargetHi],
            s.cfg.srInputDivOvr.map (fun _ => .inputDivOvr), [.loopDivLo, .loopDivHi],
            s.cfg.srInputLoopRatio.map (fun _ => .inputLoopRatio), s.cfg.srCpGain.map (fun _ => .cpGain),
            s.cfg.srGmp.map (fun _ => .gmpCtrl), s.cfg.srAnaTest.map (fun _ => .anaTestCtrl), [.fsmOvrCtrl],
            s.cfg.srPhaseErr.map (fun _ => .phaseErrCtrl), s.cfg.srLockFilter.map (fun _ => .lockFilter),
            s.cfg.srProDlyRelock.map (fun _ => .proDlyRelock), s.cfg.srLockDetMode.map (fun _ => .lockDetMode),
            if s.cfg.sscEnabled then s.cfg.sscByteMap.map (fun e => .ssc e.n) else []]
          s.cfg.srDelayUs.toList).flatMap
        (fun x => x.1.map (fun r => Sum.inl (s.cfg.offset r)) ++ (if x.2 = 0 then [] else [Sum.inr x.2]))

/-- RECALC_RATE: the committed rate with no access while it is not 0, else the read-back of the loop fields, low field
first; it commits nothing (43 R156, R157). Rests on the spec's own decision D23. -/
def Obligations.RecalcRateReports : Prop :=
  ∀ s : State, Ready s → ∃ t v evs, exec .recalcRate s = .next t ∧ Ends 0x12 .ok [(0, v)] evs s t ∧
    SameRuntime s t ∧ (∀ off, t.stored off = s.stored off) ∧
    (s.currentVcoRate ≠ 0 → v = s.currentVcoRate.toNat ∧ evs = [] ∧ t.env = s.env) ∧
    (s.currentVcoRate = 0 → (∃ b c, evs =
        [.read (s.cfg.offset .loopDivLo) b, .read (s.cfg.offset .loopDivHi) c]) ∧
      (s.cfg.wellFormed = true →
        v = 19200000 * (64 * s.field (s.cfg.fd .loopHi) + s.field (s.cfg.fd .loopLo)) / 4))

/-- SET_RATE then RECALC_RATE (43 R158): the rate itself through the cheap path, and the quantized rate where the
committed rate is 0 over the same bank, within 2,400,000 Hz below the wrap. Rests on the spec's own derivations in
R158, R92. -/
def Obligations.SetRateThenRecalc : Prop :=
  ∀ s : State, Ready s → s.cfg.wellFormed = true → (s.cfg.sscEnabled = true → s.arg0 < 5404319539200000) →
    ∃ t, exec .setRate s = .next t ∧
      (s.arg0 ≠ 0 → ∃ u, exec .recalcRate t = .next u ∧
        (u.iface u.turn).readRes 0 = some (s.iface s.turn).arg0) ∧
      (∀ n : State, Ready n → n.currentVcoRate = 0 → n.cfg = t.cfg → n.bank = t.bank → n.image = t.image →
        ∃ u, exec .recalcRate n = .next u ∧
          (u.iface u.turn).readRes 0 = some (BitVec.ofNat 64 (19200000 * loopDiv s.arg0 / 4)) ∧
          (s.arg0 < 19658400000 → s.arg0 ≤ 19200000 * loopDiv s.arg0 / 4 + 2400000 ∧
            19200000 * loopDiv s.arg0 / 4 ≤ s.arg0 + 2400000))

/-! ### Lifecycle -/

/-- The lock poll: a hit on attempt k after k reads and k - 1 delays of 1000, or a miss after 15 reads and 14 delays;
it writes `locked` and nothing else but the environment and the history (44 R161, R162). Rests on the spec's own
decision D30; the spec's own derivations in R162; log entry 12 (the model's choice). -/
def Obligations.LockPollCounts : Prop :=
  ∀ s : State, ∃ evs env, Polled s.cfg (lockPoll s).1 evs ∧
    (lockPoll s).2 = { s with env := env, locked := (lockPoll s).1, history := s.history ++ evs }

/-- The poll hits at the first lock answer that is 1 among the next 15, and misses if all 15 are 0 (20 R46, 44 R162).
Rests on the spec's own decision D5; the spec's own derivations in R162; log entry 4 (the model's choice). -/
def Obligations.LockPollFollowsDraws : Prop :=
  ∀ s : State, s.cfg.wellFormed = true →
    (∀ k rest, k < 15 → s.env.lock = List.replicate k false ++ true :: rest →
      (lockPoll s).1 = true ∧ (lockPoll s).2.env.lock = rest) ∧
    (∀ rest, s.env.lock = List.replicate 15 false ++ rest →
      (lockPoll s).1 = false ∧ (lockPoll s).2.env.lock = rest)

/-- IS_ENABLED: RES0 and `locked` say whether the poll hit, as the lock answers have it; it does not depend on
`powered_on` (44 R163). Rests on the spec's own decisions D5, D30; the spec's own derivations in R162; log entries 4,
12 (the model's choice). -/
def Obligations.IsEnabledCompletes : Prop :=
  ∀ s : State, Ready s → ∃ t evs hit, exec .isEnabled s = .next t ∧
    Ends 0x23 .ok [(0, if hit then 1 else 0)] evs s t ∧ Polled s.cfg hit evs ∧ t.locked = hit ∧
    SameButLocked s t ∧ (∀ off, t.stored off = s.stored off) ∧
    (s.cfg.wellFormed = true → LockAnswers s.env.lock hit)

/-- PREPARE while on and UNPREPARE while off complete with OK and no access (44 R165, R168). Rests on the spec's own
decisions D31, D32, D53. -/
def Obligations.LifecycleNoOps : Prop :=
  ∀ s : State, Ready s →
    (s.poweredOn = true → ∃ t, exec .prepare s = .next t ∧ Ends 0x20 .ok [] [] s t ∧ Untouched s t) ∧
    (s.poweredOn = false → ∃ t, exec .unprepare s = .next t ∧ Ends 0x21 .ok [] [] s t ∧ Untouched s t)

/-- PREPARE while off and "already running" reads 0: the toggle, the poll, and its outcome as the lock answers have it
(44 R165, R166). Rests on the spec's own decisions D5, D31, D40, D53; the spec's own derivations in R162; log entries
4, 12 (the model's choice). -/
def Obligations.PrepareColdPath : Prop :=
  ∀ s : State, Ready s → s.poweredOn = false → (s.fieldRead (s.cfg.fd .running)).1 = 0 →
    ∃ t b evs hit, Polled s.cfg hit evs ∧ exec .prepare s = .next t ∧
      Ends 0x20 (if hit then .ok else .lockTimeout) []
        (.read (s.cfg.offset .sysCtrl) b :: (toggleEvents s.cfg ++ evs)) s t ∧
      t.poweredOn = hit ∧ t.locked = hit ∧ t.currentVcoRate = s.currentVcoRate ∧ t.cache = s.cache ∧
      t.cacheStatus = s.cacheStatus ∧ t.stored (s.cfg.offset .sysCtrl) = s.cfg.sysctrlV2 ∧
      BytesKept [.sysCtrl] s t ∧
      (s.cfg.wellFormed = true → s.cfg.offset .sysCtrl ≠ s.cfg.offset .lockStatus → LockAnswers s.env.lock hit)

/-- PREPARE while off and "already running" reads 1: the relock branch, which ends early with LockTimeout when its
poll misses, else goes on to the second toggle and poll (44 R164 to R166). Every register write stands, miss or hit:
what the bank holds is said of the fields whose register does not share SYS_CTRL's offset, since the toggle writes
that byte whole. Rests on the spec's own decisions D5, D7, D31, D40, D53; the spec's own derivations in R162; log
entries 4, 12 (the model's choice). -/
def Obligations.PrepareRelockPath : Prop :=
  ∀ s : State, Ready s → s.poweredOn = false → (s.fieldRead (s.cfg.fd .running)).1 = 1 →
    ∃ t b c evs rest hit, Polled s.cfg hit evs ∧ exec .prepare s = .next t ∧
      t.currentVcoRate = s.currentVcoRate ∧ t.cache = s.cache ∧ t.cacheStatus = s.cacheStatus ∧
      BytesKept [.sysCtrl, .pwrupCtrl, .pllCntrl] s t ∧
      t.stored (s.cfg.offset .sysCtrl) = s.cfg.sysctrlV2 ∧
      (s.cfg.wellFormed = true → s.cfg.offset .pwrupCtrl ≠ s.cfg.offset .sysCtrl →
        t.field (s.cfg.fd .ovrEn) = 0 ∧ t.field (s.cfg.fd .ovr) = 1) ∧
      (s.cfg.wellFormed = true → s.cfg.offset .pllCntrl ≠ s.cfg.offset .sysCtrl →
        t.field (s.cfg.fd .clksel) = if hit then 2 ^ s.cfg.widthClksel - 1 else s.field (s.cfg.fd .clksel)) ∧
      (s.cfg.wellFormed = true → ∀ a, a ∉ [FieldName.ovrEn, .ovr, .clksel, .lock, .running] →
        s.cfg.offset (s.cfg.fd a).reg ≠ s.cfg.offset .sysCtrl → t.field (s.cfg.fd a) = s.field (s.cfg.fd a)) ∧
      (s.cfg.wellFormed = true → s.cfg.offset .sysCtrl ≠ s.cfg.offset .lockStatus →
        s.cfg.offset .pwrupCtrl ≠ s.cfg.offset .lockStatus → LockAnswers s.env.lock hit) ∧
      (∃ e, Ends 0x20 e []
        ([.read (s.cfg.offset .sysCtrl) b, .read (s.cfg.offset .pwrupCtrl) c,
            .write (s.cfg.offset .pwrupCtrl) ((c &&& ~~~((s.cfg.fd .ovrEn).mask ||| (s.cfg.fd .ovr).mask)) |||
              (s.cfg.fd .ovrEn).place 0 ||| (s.cfg.fd .ovr).place 1),
            .delay s.cfg.tPrepOvr] ++ toggleEvents s.cfg ++ evs ++ rest) s t ∧
        (hit = false → e = .lockTimeout ∧ rest = [] ∧ t.poweredOn = false ∧ t.locked = false ∧
          BytesKept [.sysCtrl, .pwrupCtrl] s t) ∧
        (hit = true → ∃ cevs evs2 hit2, Polled s.cfg hit2 evs2 ∧
          rest = cevs ++ [.delay s.cfg.tPrepClksel] ++ toggleEvents s.cfg ++ evs2 ∧
          (s.cfg.widthClksel < 8 →
            MergeEvents s.cfg (s.cfg.fd .clksel) (2 ^ s.cfg.widthClksel - 1) cevs) ∧
          (s.cfg.widthClksel = 8 → cevs = [.write (s.cfg.offset .pllCntrl) 0xFF]) ∧
          e = (if hit2 then .ok else .lockTimeout) ∧ t.poweredOn = hit2 ∧ t.locked = hit2))

/-- UNPREPARE while on (44 R168): the gate, the clock-select bits and the override pair, each write followed by its
delay; `powered_on` and `locked` become false; nothing else changes. Rests on the spec's own decision D32; log entry
17 (the model's choice). -/
def Obligations.UnprepareEffect : Prop :=
  ∀ s : State, Ready s → s.poweredOn = true → s.cfg.wellFormed = true →
    ∃ t evs, exec .unprepare s = .next t ∧ Ends 0x21 .ok [] evs s t ∧
      t.poweredOn = false ∧ t.locked = false ∧ t.currentVcoRate = s.currentVcoRate ∧ t.cache = s.cache ∧
      t.cacheStatus = s.cacheStatus ∧
      t.field (s.cfg.fd .sscGate) = 0 ∧ t.field (s.cfg.fd .clksel) = 0 ∧ t.field (s.cfg.fd .ovrEn) = 1 ∧
      t.field (s.cfg.fd .ovr) = 0 ∧ FieldsKept [.sscGate, .clksel, .ovrEn, .ovr] s t ∧
      BytesKept [.sscGateReg, .pllCntrl, .pwrupCtrl] s t ∧
      commitTrace evs =
        [.inl (s.cfg.offset .sscGateReg), .inr s.cfg.tUnpGate, .inl (s.cfg.offset .pllCntrl), .inr s.cfg.tUnpClksel,
          .inl (s.cfg.offset .pwrupCtrl), .inr s.cfg.tUnpOvr]

/-- ENABLE (44 R169): while off, OK and no access; while on, the gate bit set by one read and one write, then the
barrier; nothing else changes. -/
def Obligations.EnableEffect : Prop :=
  ∀ s : State, Ready s →
    (s.poweredOn = false → ∃ t, exec .enable s = .next t ∧ Ends 0x22 .ok [] [] s t ∧ Untouched s t) ∧
    (s.poweredOn = true → s.cfg.wellFormed = true →
      ∃ t evs, exec .enable s = .next t ∧ Ends 0x22 .ok [] (evs ++ [.barrier]) s t ∧
        MergeEvents s.cfg (s.cfg.fd .sscGate) 1 evs ∧ SameRuntime s t ∧
        t.field (s.cfg.fd .sscGate) = 1 ∧ FieldsKept [.sscGate] s t ∧ BytesKept [.sscGateReg] s t)

/-! ### The divider tree -/

/-- POSTDIV_SET with an index in range (42 R125, R126): the row's two codes and the sub-range code of the divided
rate, each of the two registers written once; nothing else changes. Rests on the spec's own decision D25; log entries
12, 21 (the model's choice). -/
def Obligations.PostdivSetWrites : Prop :=
  ∀ (s : State) (i : Fin 6), Ready s → s.cfg.wellFormed = true → s.arg0 = i.val →
    ∃ t evs, exec .postdivSet s = .next t ∧ Ends 0x30 .ok [] evs s t ∧ SameRuntime s t ∧
      t.field (s.cfg.fd .vcoRange) = s.cfg.postdivTable[i.val].rc.toNat ∧
      t.field (s.cfg.fd .cpBias) = s.cfg.postdivTable[i.val].bc.toNat ∧
      (let vco := if s.currentVcoRate = 0 then
          19200000 * (64 * s.field (s.cfg.fd .loopHi) + s.field (s.cfg.fd .loopLo)) / 4
        else s.currentVcoRate.toNat
      t.field (s.cfg.fd .subrange) = (subRange s.cfg (vco / 2 ^ i.val / 1000000)).toNat) ∧
      FieldsKept [.vcoRange, .cpBias, .subrange] s t ∧ BytesKept [.vcoCntrl, .cpBias] s t ∧
      commitTrace evs = [.inl (s.cfg.offset .vcoCntrl), .inl (s.cfg.offset .cpBias)]

/-- POSTDIV_GET (42 R124, R127): the first table row equal to the two fields, or index 0, the unmapped flag and the
log event; two reads, range code first; nothing else changes. Rests on the spec's own decisions D26, D45; log entry 12
(the model's choice). -/
def Obligations.PostdivGetDecodes : Prop :=
  ∀ s : State, Ready s → s.cfg.wellFormed = true → ∃ t i u b c lg, exec .postdivGet s = .next t ∧
    Ends 0x31 .ok [(0, i), (1, u)]
      ([.read (s.cfg.offset .vcoCntrl) b, .read (s.cfg.offset .cpBias) c] ++ lg) s t ∧
    SameRuntime s t ∧ (∀ off, t.stored off = s.stored off) ∧
    (let rc := s.field (s.cfg.fd .vcoRange)
    let bc := s.field (s.cfg.fd .cpBias)
    (∀ j : Fin 6, s.cfg.postdivTable[j.val].rc.toNat = rc → s.cfg.postdivTable[j.val].bc.toNat = bc →
      (∀ k : Fin 6, k < j →
        ¬(s.cfg.postdivTable[k.val].rc.toNat = rc ∧ s.cfg.postdivTable[k.val].bc.toNat = bc)) →
      i = j.val ∧ u = 0 ∧ lg = []) ∧
    ((∀ k : Fin 6, ¬(s.cfg.postdivTable[k.val].rc.toNat = rc ∧ s.cfg.postdivTable[k.val].bc.toNat = bc)) →
      i = 0 ∧ u = 1 ∧ lg = [.log (.unmappedPostDivIndex rc bc)]))

/-- GPDIV_SET with a value the field can hold, 6 and 7 among them, and the parent it selects, none for 6 and 7 (42
R129, R130). Rests on the spec's own decision D28; log entry 12 (the model's choice). -/
def Obligations.GpdivSetWrites : Prop :=
  ∀ s : State, Ready s → s.cfg.wellFormed = true → s.arg0 ≤ 7 →
    ∃ t evs, exec .gpdivSet s = .next t ∧ Ends 0x32 .ok [] evs s t ∧
      MergeEvents s.cfg (s.cfg.fd .gpdiv) s.arg0 evs ∧ SameRuntime s t ∧
      t.field (s.cfg.fd .gpdiv) = s.arg0 ∧ t.gpdivParent = (if s.arg0 ≤ 5 then some (2 ^ s.arg0) else none) ∧
      FieldsKept [.gpdiv] s t ∧ BytesKept [.gpdivReg] s t

/-- GPDIV_GET reports the field, no value rejected or remapped (42 R131). -/
def Obligations.GpdivGetReads : Prop :=
  ∀ s : State, Ready s → s.cfg.wellFormed = true → ∃ t b, exec .gpdivGet s = .next t ∧
    Ends 0x33 .ok [(0, s.field (s.cfg.fd .gpdiv))] [.read (s.cfg.offset .gpdivReg) b] s t ∧
    s.field (s.cfg.fd .gpdiv) ≤ 7 ∧ SameRuntime s t ∧ ∀ off, t.stored off = s.stored off

/-- POSTDIV_SET i then POSTDIV_GET gives the first row equal to row i (42 R128); GPDIV_SET v then GPDIV_GET gives v
over the full 0 .. 7 (42 R129, R131). Rests on the spec's own derivations in R128. -/
def Obligations.DividerRoundTrips : Prop :=
  (∀ (s : State) (i j : Fin 6), Ready s → s.cfg.wellFormed = true → s.arg0 = i.val →
    s.cfg.postdivTable[j.val] = s.cfg.postdivTable[i.val] →
    (∀ k : Fin 6, k < j → s.cfg.postdivTable[k.val] ≠ s.cfg.postdivTable[i.val]) →
    ∃ t u, exec .postdivSet s = .next t ∧ exec .postdivGet t = .next u ∧
      (u.iface u.turn).readRes 0 = some (BitVec.ofNat 64 j.val) ∧ (u.iface u.turn).readRes 1 = some 0) ∧
  (∀ s : State, Ready s → s.cfg.wellFormed = true → s.arg0 ≤ 7 →
    ∃ t u, exec .gpdivSet s = .next t ∧ exec .gpdivGet t = .next u ∧
      (u.iface u.turn).readRes 0 = some (s.iface s.turn).arg0)

/-- PIXDIV_ROUND_RATE (42 R133, R134). Rests on the spec's own decision D29. -/
def Obligations.PixdivRoundRateResult : Prop :=
  ∀ s : State, Ready s → ∃ t, exec .pixdivRoundRate s = .next t ∧ Untouched s t ∧
    let ratio := if s.arg0 = 0 then 128 else min (max ((s.arg1 + s.arg0 / 2) / s.arg0) 1) 128
    Ends 0x34 .ok [(0, (s.arg1 + ratio - 1) / ratio), (1, ratio)] [] s t

/-- PIXDIV_SET_RATE (42 R132, R133, R135): the field takes the ratio minus 1, the reserved top bit stays. Rests on the
spec's own decision D29; log entry 12 (the model's choice). -/
def Obligations.PixdivSetRateWrites : Prop :=
  ∀ s : State, Ready s → s.cfg.wellFormed = true →
    let ratio := if s.arg0 = 0 then 128 else min (max ((s.arg1 + s.arg0 / 2) / s.arg0) 1) 128
    ∃ t evs, exec .pixdivSetRate s = .next t ∧ Ends 0x35 .ok [(1, ratio)] evs s t ∧
      MergeEvents s.cfg (s.cfg.fd .pixdiv) (ratio - 1) evs ∧ SameRuntime s t ∧
      t.field (s.cfg.fd .pixdiv) = ratio - 1 ∧ FieldsKept [.pixdiv] s t ∧ BytesKept [.pixdiv] s t

/-- PIXDIV_RECALC_RATE (42 R136): the ceiling of the parent rate over the field plus 1. Rests on the spec's own
decision D29; log entry 12 (the model's choice). -/
def Obligations.PixdivRecalcRateReports : Prop :=
  ∀ s : State, Ready s → s.cfg.wellFormed = true → ∃ t b, exec .pixdivRecalcRate s = .next t ∧
    Ends 0x36 .ok [(0, (s.arg1 + s.field (s.cfg.fd .pixdiv)) / (s.field (s.cfg.fd .pixdiv) + 1))]
      [.read (s.cfg.offset .pixdiv) b] s t ∧ SameRuntime s t ∧ ∀ off, t.stored off = s.stored off

/-! ### The state cache -/

/-- SAVE (45 R181): the four bytes read, then the poll, then the rate, 0 on a miss; the bank is left alone. Rests on
the spec's own decision D34; log entry 12 (the model's choice). -/
def Obligations.SaveCaptures : Prop :=
  ∀ s : State, Ready s → ∃ t b1 b2 b3 b4 r pevs revs hit, exec .save s = .next t ∧
    Ends 0x40 .ok [(0, r)]
      ([.read (s.cfg.offset .vcoCntrl) b1, .read (s.cfg.offset .cpBias) b2, .read (s.cfg.offset .pllCntrl) b3,
        .read (s.cfg.offset .pixdiv) b4] ++ pevs ++ revs) s t ∧
    Polled s.cfg hit pevs ∧ t.locked = hit ∧ t.poweredOn = s.poweredOn ∧ t.currentVcoRate = s.currentVcoRate ∧
    t.cache = ⟨b1, b2, b3, b4, BitVec.ofNat 64 r⟩ ∧ t.cacheStatus = .valid ∧
    (∀ off, t.stored off = s.stored off) ∧
    (∀ x ∈ List.zip capturedRegs [b1, b2, b3, b4], PlainOffset s.cfg x.1 → x.2 = s.stored (s.cfg.offset x.1)) ∧
    (hit = false → r = 0 ∧ revs = []) ∧
    (hit = true → s.currentVcoRate ≠ 0 → r = s.currentVcoRate.toNat ∧ revs = []) ∧
    (hit = true → s.currentVcoRate = 0 →
      (∃ b c, revs = [.read (s.cfg.offset .loopDivLo) b, .read (s.cfg.offset .loopDivHi) c]) ∧
      (s.cfg.wellFormed = true →
        r = 19200000 * (64 * s.field (s.cfg.fd .loopHi) + s.field (s.cfg.fd .loopLo)) / 4))

/-- RESTORE before any SAVE is fault CacheNotSaved: the mark and nothing else (45 R182, 60 R201, R206.4). Rests on the
spec's own decisions D35, D47; log entry 7 (the model's choice). -/
def Obligations.RestoreNeverSavedFaults : Prop :=
  ∀ s : State, Ready s → s.cacheStatus = .empty →
    exec .restore s = .next { s with fault := some .cacheNotSaved }

/-- RESTORE of a saved cache (45 R182, R183): what SET_RATE of the cached rate does, then by the draw either the four
captured bytes written whole and CONSUMED, or LockTimeout with neither. Rests on the spec's own decisions D22, D35,
D36; log entries 4, 21 (the model's choice). -/
def Obligations.RestoreFollowsDraw : Prop :=
  ∀ s : State, Ready s → s.cacheStatus ≠ .empty →
    (s.cfg.sscEnabled = true → s.cache.rate.toNat < 5404319539200000) →
    ∃ t x ok revs, exec .restore s = .next t ∧
      exec .setRate (s.setIface s.turn { s.iface s.turn with arg0 := s.cache.rate }) = .next x ∧
      x.history = s.history ++ (revs ++ [.cmdEnd s.turn 0x11 .ok]) ∧
      (∀ d ds, s.env.restore = d :: ds → ok = d) ∧
      (∀ off, OutsideRate s.cfg off → x.stored off = s.stored off) ∧
      t.currentVcoRate = s.cache.rate ∧ t.locked = false ∧ t.poweredOn = s.poweredOn ∧ t.cache = s.cache ∧
      (ok = true →
        Ends 0x41 .ok []
          (revs ++ [.write (s.cfg.offset .vcoCntrl) s.cache.vcoCntrl, .write (s.cfg.offset .cpBias) s.cache.cpBias,
            .write (s.cfg.offset .pllCntrl) s.cache.pllCntrl, .write (s.cfg.offset .pixdiv) s.cache.pixdiv]) s t ∧
        t.cacheStatus = .consumed ∧
        (∀ r ∈ capturedRegs, (∀ r' ∈ capturedRegs, s.cfg.offset r' = s.cfg.offset r →
            s.cache.byte r' = s.cache.byte r) → t.stored (s.cfg.offset r) = s.cache.byte r) ∧
        BytesKept capturedRegs x t) ∧
      (ok = false → Ends 0x41 .lockTimeout [] revs s t ∧ t.cacheStatus = s.cacheStatus ∧
        ∀ off, t.stored off = x.stored off)

/-- SAVE with a lock hit, then a RESTORE that succeeds (45 R184): the captured registers hold the bytes they held
before SAVE, and RECALC_RATE gives the rate it gave before SAVE where that was not 0. Rests on the spec's own
derivations in R184; log entry 4 (the model's choice). -/
def Obligations.SaveThenRestore : Prop :=
  ∀ s t u : State, Ready s → s.cfg.wellFormed = true → (∀ r ∈ capturedRegs, PlainOffset s.cfg r) →
    exec .save s = .next t → t.locked = true → exec .restore t = .next u → u.refused = none →
    (u.iface u.turn).err = 0 →
    (∀ r ∈ capturedRegs, u.stored (s.cfg.offset r) = s.stored (s.cfg.offset r)) ∧
    ∃ a b v, exec .recalcRate s = .next a ∧ exec .recalcRate u = .next b ∧
      (a.iface a.turn).readRes 0 = some v ∧ (v ≠ 0 → (b.iface b.turn).readRes 0 = some v)

/-! ### Invariants -/

/-- Every step keeps every list of the state in its canonical form, the bank's offsets inside the address space (10
R40). Rests on the spec's own decision D37. -/
def Obligations.StepKeepsCanonical : Prop :=
  ∀ s t : State, s.canonical = true → step s = .next t → t.canonical = true

/-- Every step keeps each mux lock held by exactly the agent whose command in progress takes it (10 R32, 20 R59), and
no command in progress before construction has ended (60 R212). Rests on the spec's own decision D37; log entries 22,
23, 26 (the model's choice). -/
def Obligations.StepKeepsLocksMatched : Prop :=
  ∀ s t : State, step s = .next t →
    (LocksMatch s → LocksMatch t) ∧ (AgentsAwaitConstruction s → AgentsAwaitConstruction t)

/-- The reset state meets the invariants, and so does the state at launch, whose values are the model's choice (log
entry 29). Rests on the spec's own decisions D37, D41; log entries 26, 29 (the model's choice). -/
def Obligations.ResetMeetsInvariants : Prop :=
  State.reset.canonical = true ∧ LocksMatch State.reset ∧ AgentsAwaitConstruction State.reset ∧
  launchState.canonical = true ∧ LocksMatch launchState ∧ AgentsAwaitConstruction launchState
end

