-- ==== Sys2Proof/Laws/Fields.lean ====
section
/-! SUPPORT. The laws of fields: what a merged field reads as, and that fields sharing no bit do not disturb one
another. Every law goes through the bits of a byte. -/

namespace Sys2Proof

/-- Bit `k` of a mask is set exactly inside the field. -/
theorem FieldDesc.getLsbD_mask (f : FieldDesc) (k : Nat) :
    f.mask.getLsbD k = (decide (k < 8) && decide (f.lsb ≤ k) && decide (k < f.lsb + f.width)) := by
  unfold FieldDesc.mask
  rw [BitVec.getLsbD_ofNat, Nat.testBit_shiftLeft, Nat.testBit_two_pow_sub_one]
  by_cases h1 : k < 8 <;> by_cases h2 : f.lsb ≤ k <;> simp [h1, h2]
  omega

/-- Bit `k` of a placed value is the value's bit, inside the field. -/
theorem FieldDesc.getLsbD_place (f : FieldDesc) (v k : Nat) :
    (f.place v).getLsbD k =
      (decide (k < 8) && decide (f.lsb ≤ k) && decide (k < f.lsb + f.width) && v.testBit (k - f.lsb)) := by
  unfold FieldDesc.place
  rw [BitVec.getLsbD_and, f.getLsbD_mask, BitVec.getLsbD_ofNat, Nat.testBit_shiftLeft, Nat.testBit_mod_two_pow]
  by_cases h1 : k < 8 <;> by_cases h2 : f.lsb ≤ k <;> by_cases h3 : k < f.lsb + f.width <;> simp [h1, h2, h3]
  omega

/-- Bit `j` of an extracted value is the byte's bit, inside the field. -/
theorem FieldDesc.testBit_extract (f : FieldDesc) (b : Byte) (j : Nat) :
    (f.extract b).testBit j = (decide (j < f.width) && b.getLsbD (f.lsb + j)) := by
  unfold FieldDesc.extract
  rw [BitVec.testBit_toNat, BitVec.getLsbD_ushiftRight, BitVec.getLsbD_and, f.getLsbD_mask]
  by_cases h1 : f.lsb + j < 8
  · by_cases h2 : j < f.width <;> simp [h1, h2]
  · simp [h1, BitVec.getLsbD_of_ge b (f.lsb + j) (by omega)]

/-- An extracted value fits its field. -/
theorem FieldDesc.extract_lt (f : FieldDesc) (b : Byte) : f.extract b < 2 ^ f.width := by
  refine Nat.lt_pow_two_of_testBit _ (fun j hj => ?_)
  rw [f.testBit_extract]
  simp [Nat.not_lt.mpr hj]

/-- A field read back after a merge is the value merged, truncated to the field's width (20 R47). -/
theorem FieldDesc.extract_merge {f : FieldDesc} (h : f.lsb + f.width ≤ 8) (v : Nat) (b : Byte) :
    f.extract (f.merge v b) = v % 2 ^ f.width := by
  refine Nat.eq_of_testBit_eq (fun j => ?_)
  rw [f.testBit_extract, Nat.testBit_mod_two_pow]
  by_cases hj : j < f.width
  · simp only [FieldDesc.merge, BitVec.getLsbD_or, BitVec.getLsbD_and, BitVec.getLsbD_not, f.getLsbD_mask,
      f.getLsbD_place]
    simp [hj, show f.lsb + j < 8 by omega]
  · simp [hj]

/-- Two masks share no bit. -/
theorem mask_disjoint {f g : FieldDesc} (h : f.mask &&& g.mask = 0) (k : Nat) :
    ¬(f.mask.getLsbD k = true ∧ g.mask.getLsbD k = true) := by
  intro ⟨hf, hg⟩
  have := congrArg (fun b => b.getLsbD k) h
  simp [hf, hg] at this

/-- Two bytes that agree outside a mask agree on every field apart from it. -/
theorem FieldDesc.extract_congr {f g : FieldDesc} (h : f.mask &&& g.mask = 0) {b c : Byte}
    (hbc : b &&& ~~~g.mask = c &&& ~~~g.mask) : f.extract b = f.extract c := by
  refine Nat.eq_of_testBit_eq (fun j => ?_)
  rw [f.testBit_extract, f.testBit_extract]
  by_cases hj : j < f.width
  · by_cases h8 : f.lsb + j < 8
    · have hf : f.mask.getLsbD (f.lsb + j) = true := by rw [f.getLsbD_mask]; simp [h8, hj]
      have hg : g.mask.getLsbD (f.lsb + j) = false := by
        have := mask_disjoint h (f.lsb + j)
        simpa [hf] using this
      have hb := congrArg (fun b => b.getLsbD (f.lsb + j)) hbc
      simp only [BitVec.getLsbD_and, BitVec.getLsbD_not, hg, h8] at hb
      simpa using congrArg (decide (j < f.width) && ·) (by simpa using hb)
    · simp [BitVec.getLsbD_of_ge b (f.lsb + j) (by omega), BitVec.getLsbD_of_ge c (f.lsb + j) (by omega)]
  · simp [hj]

/-- A merge leaves the bits outside its field as they were. -/
theorem FieldDesc.merge_outside (f : FieldDesc) (v : Nat) (b : Byte) :
    f.merge v b &&& ~~~f.mask = b &&& ~~~f.mask := by
  refine BitVec.eq_of_getLsbD_eq (fun k hk => ?_)
  simp only [FieldDesc.merge, BitVec.getLsbD_or, BitVec.getLsbD_and, BitVec.getLsbD_not, f.getLsbD_mask,
    f.getLsbD_place]
  by_cases h2 : f.lsb ≤ k <;> by_cases h3 : k < f.lsb + f.width <;> simp [hk, h2, h3]

/-- A merge does not disturb a field apart from it. -/
theorem FieldDesc.extract_merge_apart {f g : FieldDesc} (h : f.mask &&& g.mask = 0) (v : Nat) (b : Byte) :
    f.extract (g.merge v b) = f.extract b :=
  FieldDesc.extract_congr h (g.merge_outside v b)

namespace Machine

/-- A drawn bit leaves the other bits as they were. -/
theorem overlayBit_outside (f : FieldDesc) (d : Bool) (b : Byte) :
    overlayBit f d b &&& ~~~f.mask = b &&& ~~~f.mask := by
  refine BitVec.eq_of_getLsbD_eq (fun k hk => ?_)
  simp only [overlayBit, BitVec.getLsbD_or, BitVec.getLsbD_and, BitVec.getLsbD_not]
  cases d <;> cases h : f.mask.getLsbD k <;> simp [hk, h, -BitVec.getLsbD_eq_getElem]

/-- A drawn bit does not disturb a field apart from it. -/
theorem extract_overlayBit_apart {f g : FieldDesc} (h : f.mask &&& g.mask = 0) (d : Bool) (b : Byte) :
    f.extract (overlayBit g d b) = f.extract b :=
  FieldDesc.extract_congr h (overlayBit_outside g d b)

/-- A drawn bit of a one-bit field reads as the draw. -/
theorem extract_overlayBit_same {f : FieldDesc} (hl : f.lsb ≤ 7) (hw : f.width = 1) (d : Bool) (b : Byte) :
    f.extract (overlayBit f d b) = if d then 1 else 0 := by
  refine Nat.eq_of_testBit_eq (fun j => ?_)
  rw [f.testBit_extract, hw]
  by_cases hj : j = 0
  · subst hj
    have hm : f.mask.getLsbD f.lsb = true := by rw [f.getLsbD_mask]; simp [hw]; omega
    cases d <;> simp [overlayBit, hm]
  · have : ¬ j < 1 := by omega
    cases d <;> simp [this, Nat.testBit_lt_two_pow (Nat.one_lt_two_pow hj)]

end Machine

/-! ### What a well-formed configuration says of its fields -/

theorem FieldName.mem_all (a : FieldName) : a ∈ FieldName.all := by
  cases a <;> decide

theorem Params.wellFormed_inByte {p : Params} (h : p.wellFormed = true) (a : FieldName) :
    (p.fd a).lsb ≤ 7 ∧ 1 ≤ (p.fd a).width ∧ (p.fd a).width ≤ 8 ∧ (p.fd a).lsb + (p.fd a).width ≤ 8 := by
  simp only [Params.wellFormed, Params.fieldsInByte, Bool.and_eq_true, List.all_eq_true] at h
  have := h.1.1.1.1.1.1.1.1.1.1 a a.mem_all
  simpa [FieldDesc.inByte, and_assoc] using this

theorem Params.apart_iff {p : Params} {f g : FieldDesc} :
    p.apart f g = true ↔ (p.offset f.reg = p.offset g.reg → f.mask &&& g.mask = 0) := by
  by_cases h : p.offset f.reg = p.offset g.reg <;> simp [Params.apart, h]

theorem Params.wellFormed_apart {p : Params} (h : p.wellFormed = true) {a b : FieldName} (hab : a ≠ b) :
    p.apart (p.fd a) (p.fd b) = true := by
  simp only [Params.wellFormed, Params.namedApart, Bool.and_eq_true, List.all_eq_true] at h
  have := h.1.1.1.1.1.1.1.1.2 a a.mem_all b b.mem_all
  simpa [hab] using this

theorem Params.wellFormed_listApart {p : Params} (h : p.wellFormed = true) {f : FieldDesc} (hf : f ∈ p.listFields)
    (a : FieldName) : p.apart f (p.fd a) = true := by
  simp only [Params.wellFormed, Params.listsApart, Bool.and_eq_true, List.all_eq_true] at h
  exact (h.1.1.1.1.1.1.1.2 f hf).1 a a.mem_all

theorem Params.wellFormed_listInByte {p : Params} (h : p.wellFormed = true) {f : FieldDesc} (hf : f ∈ p.listFields) :
    f.lsb ≤ 7 ∧ 1 ≤ f.width ∧ f.width ≤ 8 ∧ f.lsb + f.width ≤ 8 := by
  simp only [Params.wellFormed, Params.fieldsInByte, Bool.and_eq_true, List.all_eq_true] at h
  have := h.1.1.1.1.1.1.1.1.1.2 f hf
  simpa [FieldDesc.inByte, and_assoc] using this

end Sys2Proof
end

