-- ==== Sys2Proof/Laws/Sparse.lean ====
section
/-! SUPPORT. The laws of sparse maps: read after write, and every operation keeps the canonical form. -/

namespace Sys2Proof.Machine

variable {α : Type}

theorem Sparse.find?_insert_same (k : Nat) (v : α) (l : List (Nat × α)) :
    Sparse.find? (Sparse.insert k v l) k = some v := by
  induction l with
  | nil => simp [Sparse.insert, Sparse.find?]
  | cons e rest ih =>
    obtain ⟨j, w⟩ := e
    simp only [Sparse.insert]
    split
    · simp [Sparse.find?]
    · split
      · simp [Sparse.find?]
      · simp [Sparse.find?, ih, Ne.symm ‹¬k = j›]

theorem Sparse.find?_insert_other {j k : Nat} (h : j ≠ k) (v : α) (l : List (Nat × α)) :
    Sparse.find? (Sparse.insert k v l) j = Sparse.find? l j := by
  induction l with
  | nil => simp [Sparse.insert, Sparse.find?, h.symm]
  | cons e rest ih =>
    obtain ⟨i, w⟩ := e
    simp only [Sparse.insert]
    split
    · simp [Sparse.find?, h.symm]
    · split
      · subst ‹k = i›
        simp [Sparse.find?, h.symm]
      · simp [Sparse.find?, ih]

theorem Sparse.find?_erase_same (k : Nat) (l : List (Nat × α)) : Sparse.find? (Sparse.erase k l) k = none := by
  induction l with
  | nil => rfl
  | cons e rest ih =>
    simp only [Sparse.erase] at ih ⊢
    by_cases h : e.1 = k
    · simp [h, ih]
    · simp [h, Sparse.find?, ih]

theorem Sparse.find?_erase_other {j k : Nat} (h : j ≠ k) (l : List (Nat × α)) :
    Sparse.find? (Sparse.erase k l) j = Sparse.find? l j := by
  induction l with
  | nil => rfl
  | cons e rest ih =>
    obtain ⟨i, w⟩ := e
    simp only [Sparse.erase] at ih ⊢
    by_cases hi : i = k
    · subst hi
      simp [Sparse.find?, ih, h.symm]
    · simp [hi, Sparse.find?, ih]

variable [DecidableEq α] (d : Nat → α)

/-- A read after a write to the same key gives the value written. -/
@[simp] theorem Sparse.get_set_same (k : Nat) (v : α) (l : List (Nat × α)) :
    Sparse.get d (Sparse.set d k v l) k = v := by
  unfold Sparse.get Sparse.set
  split
  · simp [Sparse.find?_erase_same, *]
  · simp [Sparse.find?_insert_same]

/-- A write leaves every other key alone. -/
theorem Sparse.get_set_other {j k : Nat} (h : j ≠ k) (v : α) (l : List (Nat × α)) :
    Sparse.get d (Sparse.set d k v l) j = Sparse.get d l j := by
  unfold Sparse.get Sparse.set
  split
  · simp [Sparse.find?_erase_other h]
  · simp [Sparse.find?_insert_other h]

omit [DecidableEq α] in
theorem Sparse.mem_insert {k : Nat} {v : α} {l : List (Nat × α)} {e : Nat × α} (h : e ∈ Sparse.insert k v l) :
    e = (k, v) ∨ e ∈ l := by
  induction l with
  | nil => simpa [Sparse.insert] using h
  | cons x rest ih =>
    simp only [Sparse.insert] at h
    split at h
    · simpa using h
    · split at h
      · exact (List.mem_cons.mp h).imp id (fun h => List.mem_cons_of_mem _ h)
      · rcases List.mem_cons.mp h with h | h
        · exact .inr (h ▸ List.mem_cons_self)
        · exact (ih h).imp id (fun h => List.mem_cons_of_mem _ h)

omit [DecidableEq α] in
theorem Sparse.sorted_insert {k : Nat} {v : α} {l : List (Nat × α)} (h : Sparse.sorted l = true) :
    Sparse.sorted (Sparse.insert k v l) = true := by
  simp only [Sparse.sorted, decide_eq_true_eq] at h ⊢
  induction l with
  | nil => simp [Sparse.insert]
  | cons x rest ih =>
    obtain ⟨j, w⟩ := x
    obtain ⟨hx, hr⟩ := List.pairwise_cons.mp h
    simp only [Sparse.insert]
    split
    · rename_i hk
      refine List.pairwise_cons.mpr ⟨fun e he => ?_, h⟩
      rcases List.mem_cons.mp he with rfl | he
      · exact hk
      · exact Nat.lt_trans hk (hx e he)
    · split
      · subst ‹k = j›
        exact List.pairwise_cons.mpr ⟨hx, hr⟩
      · refine List.pairwise_cons.mpr ⟨fun e he => ?_, ih hr⟩
        rcases Sparse.mem_insert he with rfl | he
        · show j < k
          omega
        · exact hx e he

omit [DecidableEq α] in
theorem Sparse.sorted_erase {k : Nat} {l : List (Nat × α)} (h : Sparse.sorted l = true) :
    Sparse.sorted (Sparse.erase k l) = true := by
  exact decide_eq_true ((of_decide_eq_true h).sublist List.filter_sublist)

/-- Writing keeps the canonical form. -/
theorem Sparse.wf_set {k : Nat} {v : α} {l : List (Nat × α)} (h : Sparse.wf d l = true) :
    Sparse.wf d (Sparse.set d k v l) = true := by
  simp only [Sparse.wf, Bool.and_eq_true, List.all_eq_true, decide_eq_true_eq] at h ⊢
  unfold Sparse.set
  split
  · refine ⟨Sparse.sorted_erase h.1, fun e he => h.2 e ?_⟩
    exact (List.mem_filter.mp he).1
  · rename_i hv
    refine ⟨Sparse.sorted_insert h.1, fun e he => ?_⟩
    rcases Sparse.mem_insert he with rfl | he
    · exact hv
    · exact h.2 e he

/-- A key of the map after a write is the written key or was there before. -/
theorem Sparse.mem_set {k : Nat} {v : α} {l : List (Nat × α)} {e : Nat × α} (h : e ∈ Sparse.set d k v l) :
    e = (k, v) ∨ e ∈ l := by
  unfold Sparse.set at h
  split at h
  · exact .inr (List.mem_filter.mp h).1
  · exact Sparse.mem_insert h

end Sys2Proof.Machine
end

