-- ==== Sys2Proof/Laws/State.lean ====
section
/-! SUPPORT. One lemma per field per update of the state, each true by unfolding: later proofs unfold no record
update. -/

namespace Sys2Proof.Machine

/-! ### `State.record` -/

@[simp] theorem State.record_ifaces (e : Event) (s : State) : (s.record e).ifaces = s.ifaces := rfl
@[simp] theorem State.record_poweredOn (e : Event) (s : State) : (s.record e).poweredOn = s.poweredOn := rfl
@[simp] theorem State.record_locked (e : Event) (s : State) : (s.record e).locked = s.locked := rfl
@[simp] theorem State.record_currentVcoRate (e : Event) (s : State) :
    (s.record e).currentVcoRate = s.currentVcoRate := rfl
@[simp] theorem State.record_cache (e : Event) (s : State) : (s.record e).cache = s.cache := rfl
@[simp] theorem State.record_cacheStatus (e : Event) (s : State) : (s.record e).cacheStatus = s.cacheStatus := rfl
@[simp] theorem State.record_postdivLock (e : Event) (s : State) : (s.record e).postdivLock = s.postdivLock := rfl
@[simp] theorem State.record_gpdivLock (e : Event) (s : State) : (s.record e).gpdivLock = s.gpdivLock := rfl
@[simp] theorem State.record_fault (e : Event) (s : State) : (s.record e).fault = s.fault := rfl
@[simp] theorem State.record_refused (e : Event) (s : State) : (s.record e).refused = s.refused := rfl
@[simp] theorem State.record_constructed (e : Event) (s : State) : (s.record e).constructed = s.constructed := rfl
@[simp] theorem State.record_constructFailed (e : Event) (s : State) :
    (s.record e).constructFailed = s.constructFailed := rfl
@[simp] theorem State.record_history (e : Event) (s : State) : (s.record e).history = s.history ++ [e] := rfl
@[simp] theorem State.record_inProgress (e : Event) (s : State) : (s.record e).inProgress = s.inProgress := rfl
@[simp] theorem State.record_bank (e : Event) (s : State) : (s.record e).bank = s.bank := rfl
@[simp] theorem State.record_image (e : Event) (s : State) : (s.record e).image = s.image := rfl
@[simp] theorem State.record_cfg (e : Event) (s : State) : (s.record e).cfg = s.cfg := rfl
@[simp] theorem State.record_env (e : Event) (s : State) : (s.record e).env = s.env := rfl
@[simp] theorem State.record_hosts (e : Event) (s : State) : (s.record e).hosts = s.hosts := rfl
@[simp] theorem State.record_schedule (e : Event) (s : State) : (s.record e).schedule = s.schedule := rfl
@[simp] theorem State.record_turn (e : Event) (s : State) : (s.record e).turn = s.turn := rfl

/-! ### `State.putByte` -/

@[simp] theorem State.putByte_ifaces (off : Nat) (v : Byte) (s : State) : (s.putByte off v).ifaces = s.ifaces := rfl
@[simp] theorem State.putByte_poweredOn (off : Nat) (v : Byte) (s : State) :
    (s.putByte off v).poweredOn = s.poweredOn := rfl
@[simp] theorem State.putByte_locked (off : Nat) (v : Byte) (s : State) : (s.putByte off v).locked = s.locked := rfl
@[simp] theorem State.putByte_currentVcoRate (off : Nat) (v : Byte) (s : State) :
    (s.putByte off v).currentVcoRate = s.currentVcoRate := rfl
@[simp] theorem State.putByte_cache (off : Nat) (v : Byte) (s : State) : (s.putByte off v).cache = s.cache := rfl
@[simp] theorem State.putByte_cacheStatus (off : Nat) (v : Byte) (s : State) :
    (s.putByte off v).cacheStatus = s.cacheStatus := rfl
@[simp] theorem State.putByte_postdivLock (off : Nat) (v : Byte) (s : State) :
    (s.putByte off v).postdivLock = s.postdivLock := rfl
@[simp] theorem State.putByte_gpdivLock (off : Nat) (v : Byte) (s : State) :
    (s.putByte off v).gpdivLock = s.gpdivLock := rfl
@[simp] theorem State.putByte_fault (off : Nat) (v : Byte) (s : State) : (s.putByte off v).fault = s.fault := rfl
@[simp] theorem State.putByte_refused (off : Nat) (v : Byte) (s : State) :
    (s.putByte off v).refused = s.refused := rfl
@[simp] theorem State.putByte_constructed (off : Nat) (v : Byte) (s : State) :
    (s.putByte off v).constructed = s.constructed := rfl
@[simp] theorem State.putByte_constructFailed (off : Nat) (v : Byte) (s : State) :
    (s.putByte off v).constructFailed = s.constructFailed := rfl
@[simp] theorem State.putByte_history (off : Nat) (v : Byte) (s : State) :
    (s.putByte off v).history = s.history := rfl
@[simp] theorem State.putByte_inProgress (off : Nat) (v : Byte) (s : State) :
    (s.putByte off v).inProgress = s.inProgress := rfl
@[simp] theorem State.putByte_bank (off : Nat) (v : Byte) (s : State) :
    (s.putByte off v).bank = Sparse.set (imageByte s.image) off v s.bank := rfl
@[simp] theorem State.putByte_image (off : Nat) (v : Byte) (s : State) : (s.putByte off v).image = s.image := rfl
@[simp] theorem State.putByte_cfg (off : Nat) (v : Byte) (s : State) : (s.putByte off v).cfg = s.cfg := rfl
@[simp] theorem State.putByte_env (off : Nat) (v : Byte) (s : State) : (s.putByte off v).env = s.env := rfl
@[simp] theorem State.putByte_hosts (off : Nat) (v : Byte) (s : State) : (s.putByte off v).hosts = s.hosts := rfl
@[simp] theorem State.putByte_schedule (off : Nat) (v : Byte) (s : State) :
    (s.putByte off v).schedule = s.schedule := rfl
@[simp] theorem State.putByte_turn (off : Nat) (v : Byte) (s : State) : (s.putByte off v).turn = s.turn := rfl

/-! ### `State.setIface` -/

@[simp] theorem State.setIface_ifaces (a : Nat) (f : Iface) (s : State) :
    (s.setIface a f).ifaces = Sparse.set (fun _ => Iface.reset) a f s.ifaces := rfl
@[simp] theorem State.setIface_poweredOn (a : Nat) (f : Iface) (s : State) :
    (s.setIface a f).poweredOn = s.poweredOn := rfl
@[simp] theorem State.setIface_locked (a : Nat) (f : Iface) (s : State) : (s.setIface a f).locked = s.locked := rfl
@[simp] theorem State.setIface_currentVcoRate (a : Nat) (f : Iface) (s : State) :
    (s.setIface a f).currentVcoRate = s.currentVcoRate := rfl
@[simp] theorem State.setIface_cache (a : Nat) (f : Iface) (s : State) : (s.setIface a f).cache = s.cache := rfl
@[simp] theorem State.setIface_cacheStatus (a : Nat) (f : Iface) (s : State) :
    (s.setIface a f).cacheStatus = s.cacheStatus := rfl
@[simp] theorem State.setIface_postdivLock (a : Nat) (f : Iface) (s : State) :
    (s.setIface a f).postdivLock = s.postdivLock := rfl
@[simp] theorem State.setIface_gpdivLock (a : Nat) (f : Iface) (s : State) :
    (s.setIface a f).gpdivLock = s.gpdivLock := rfl
@[simp] theorem State.setIface_fault (a : Nat) (f : Iface) (s : State) : (s.setIface a f).fault = s.fault := rfl
@[simp] theorem State.setIface_refused (a : Nat) (f : Iface) (s : State) : (s.setIface a f).refused = s.refused := rfl
@[simp] theorem State.setIface_constructed (a : Nat) (f : Iface) (s : State) :
    (s.setIface a f).constructed = s.constructed := rfl
@[simp] theorem State.setIface_constructFailed (a : Nat) (f : Iface) (s : State) :
    (s.setIface a f).constructFailed = s.constructFailed := rfl
@[simp] theorem State.setIface_history (a : Nat) (f : Iface) (s : State) : (s.setIface a f).history = s.history := rfl
@[simp] theorem State.setIface_inProgress (a : Nat) (f : Iface) (s : State) :
    (s.setIface a f).inProgress = s.inProgress := rfl
@[simp] theorem State.setIface_bank (a : Nat) (f : Iface) (s : State) : (s.setIface a f).bank = s.bank := rfl
@[simp] theorem State.setIface_image (a : Nat) (f : Iface) (s : State) : (s.setIface a f).image = s.image := rfl
@[simp] theorem State.setIface_cfg (a : Nat) (f : Iface) (s : State) : (s.setIface a f).cfg = s.cfg := rfl
@[simp] theorem State.setIface_env (a : Nat) (f : Iface) (s : State) : (s.setIface a f).env = s.env := rfl
@[simp] theorem State.setIface_hosts (a : Nat) (f : Iface) (s : State) : (s.setIface a f).hosts = s.hosts := rfl
@[simp] theorem State.setIface_schedule (a : Nat) (f : Iface) (s : State) :
    (s.setIface a f).schedule = s.schedule := rfl
@[simp] theorem State.setIface_turn (a : Nat) (f : Iface) (s : State) : (s.setIface a f).turn = s.turn := rfl

/-! ### `State.setErr` -/

@[simp] theorem State.setErr_poweredOn (a : Nat) (e : ErrCode) (s : State) :
    (s.setErr a e).poweredOn = s.poweredOn := rfl
@[simp] theorem State.setErr_locked (a : Nat) (e : ErrCode) (s : State) : (s.setErr a e).locked = s.locked := rfl
@[simp] theorem State.setErr_currentVcoRate (a : Nat) (e : ErrCode) (s : State) :
    (s.setErr a e).currentVcoRate = s.currentVcoRate := rfl
@[simp] theorem State.setErr_cache (a : Nat) (e : ErrCode) (s : State) : (s.setErr a e).cache = s.cache := rfl
@[simp] theorem State.setErr_cacheStatus (a : Nat) (e : ErrCode) (s : State) :
    (s.setErr a e).cacheStatus = s.cacheStatus := rfl
@[simp] theorem State.setErr_postdivLock (a : Nat) (e : ErrCode) (s : State) :
    (s.setErr a e).postdivLock = s.postdivLock := rfl
@[simp] theorem State.setErr_gpdivLock (a : Nat) (e : ErrCode) (s : State) :
    (s.setErr a e).gpdivLock = s.gpdivLock := rfl
@[simp] theorem State.setErr_fault (a : Nat) (e : ErrCode) (s : State) : (s.setErr a e).fault = s.fault := rfl
@[simp] theorem State.setErr_refused (a : Nat) (e : ErrCode) (s : State) : (s.setErr a e).refused = s.refused := rfl
@[simp] theorem State.setErr_constructed (a : Nat) (e : ErrCode) (s : State) :
    (s.setErr a e).constructed = s.constructed := rfl
@[simp] theorem State.setErr_constructFailed (a : Nat) (e : ErrCode) (s : State) :
    (s.setErr a e).constructFailed = s.constructFailed := rfl
@[simp] theorem State.setErr_history (a : Nat) (e : ErrCode) (s : State) : (s.setErr a e).history = s.history := rfl
@[simp] theorem State.setErr_inProgress (a : Nat) (e : ErrCode) (s : State) :
    (s.setErr a e).inProgress = s.inProgress := rfl
@[simp] theorem State.setErr_bank (a : Nat) (e : ErrCode) (s : State) : (s.setErr a e).bank = s.bank := rfl
@[simp] theorem State.setErr_image (a : Nat) (e : ErrCode) (s : State) : (s.setErr a e).image = s.image := rfl
@[simp] theorem State.setErr_cfg (a : Nat) (e : ErrCode) (s : State) : (s.setErr a e).cfg = s.cfg := rfl
@[simp] theorem State.setErr_env (a : Nat) (e : ErrCode) (s : State) : (s.setErr a e).env = s.env := rfl
@[simp] theorem State.setErr_hosts (a : Nat) (e : ErrCode) (s : State) : (s.setErr a e).hosts = s.hosts := rfl
@[simp] theorem State.setErr_schedule (a : Nat) (e : ErrCode) (s : State) :
    (s.setErr a e).schedule = s.schedule := rfl
@[simp] theorem State.setErr_turn (a : Nat) (e : ErrCode) (s : State) : (s.setErr a e).turn = s.turn := rfl

/-! ### `State.failConstruction` -/

@[simp] theorem State.failConstruction_poweredOn (e : ErrCode) (s : State) :
    (s.failConstruction e).poweredOn = s.poweredOn := rfl
@[simp] theorem State.failConstruction_locked (e : ErrCode) (s : State) :
    (s.failConstruction e).locked = s.locked := rfl
@[simp] theorem State.failConstruction_currentVcoRate (e : ErrCode) (s : State) :
    (s.failConstruction e).currentVcoRate = s.currentVcoRate := rfl
@[simp] theorem State.failConstruction_cache (e : ErrCode) (s : State) : (s.failConstruction e).cache = s.cache := rfl
@[simp] theorem State.failConstruction_cacheStatus (e : ErrCode) (s : State) :
    (s.failConstruction e).cacheStatus = s.cacheStatus := rfl
@[simp] theorem State.failConstruction_postdivLock (e : ErrCode) (s : State) :
    (s.failConstruction e).postdivLock = s.postdivLock := rfl
@[simp] theorem State.failConstruction_gpdivLock (e : ErrCode) (s : State) :
    (s.failConstruction e).gpdivLock = s.gpdivLock := rfl
@[simp] theorem State.failConstruction_fault (e : ErrCode) (s : State) : (s.failConstruction e).fault = s.fault := rfl
@[simp] theorem State.failConstruction_refused (e : ErrCode) (s : State) :
    (s.failConstruction e).refused = s.refused := rfl
@[simp] theorem State.failConstruction_constructed (e : ErrCode) (s : State) :
    (s.failConstruction e).constructed = s.constructed := rfl
@[simp] theorem State.failConstruction_constructFailed (e : ErrCode) (s : State) :
    (s.failConstruction e).constructFailed = true := rfl
@[simp] theorem State.failConstruction_history (e : ErrCode) (s : State) :
    (s.failConstruction e).history = s.history := rfl
@[simp] theorem State.failConstruction_inProgress (e : ErrCode) (s : State) :
    (s.failConstruction e).inProgress = s.inProgress := rfl
@[simp] theorem State.failConstruction_bank (e : ErrCode) (s : State) : (s.failConstruction e).bank = s.bank := rfl
@[simp] theorem State.failConstruction_image (e : ErrCode) (s : State) : (s.failConstruction e).image = s.image := rfl
@[simp] theorem State.failConstruction_cfg (e : ErrCode) (s : State) : (s.failConstruction e).cfg = s.cfg := rfl
@[simp] theorem State.failConstruction_env (e : ErrCode) (s : State) : (s.failConstruction e).env = s.env := rfl
@[simp] theorem State.failConstruction_hosts (e : ErrCode) (s : State) : (s.failConstruction e).hosts = s.hosts := rfl
@[simp] theorem State.failConstruction_schedule (e : ErrCode) (s : State) :
    (s.failConstruction e).schedule = s.schedule := rfl
@[simp] theorem State.failConstruction_turn (e : ErrCode) (s : State) : (s.failConstruction e).turn = s.turn := rfl
@[simp] theorem State.failConstruction_ifaces (e : ErrCode) (s : State) :
    (s.failConstruction e).ifaces = (s.setErr 1 e).ifaces := rfl

/-! ### `State.setRes` -/

@[simp] theorem State.setRes_poweredOn (i : Fin 6) (v : Nat) (s : State) :
    (s.setRes i v).poweredOn = s.poweredOn := rfl
@[simp] theorem State.setRes_locked (i : Fin 6) (v : Nat) (s : State) : (s.setRes i v).locked = s.locked := rfl
@[simp] theorem State.setRes_currentVcoRate (i : Fin 6) (v : Nat) (s : State) :
    (s.setRes i v).currentVcoRate = s.currentVcoRate := rfl
@[simp] theorem State.setRes_cache (i : Fin 6) (v : Nat) (s : State) : (s.setRes i v).cache = s.cache := rfl
@[simp] theorem State.setRes_cacheStatus (i : Fin 6) (v : Nat) (s : State) :
    (s.setRes i v).cacheStatus = s.cacheStatus := rfl
@[simp] theorem State.setRes_postdivLock (i : Fin 6) (v : Nat) (s : State) :
    (s.setRes i v).postdivLock = s.postdivLock := rfl
@[simp] theorem State.setRes_gpdivLock (i : Fin 6) (v : Nat) (s : State) :
    (s.setRes i v).gpdivLock = s.gpdivLock := rfl
@[simp] theorem State.setRes_fault (i : Fin 6) (v : Nat) (s : State) : (s.setRes i v).fault = s.fault := rfl
@[simp] theorem State.setRes_refused (i : Fin 6) (v : Nat) (s : State) : (s.setRes i v).refused = s.refused := rfl
@[simp] theorem State.setRes_constructed (i : Fin 6) (v : Nat) (s : State) :
    (s.setRes i v).constructed = s.constructed := rfl
@[simp] theorem State.setRes_constructFailed (i : Fin 6) (v : Nat) (s : State) :
    (s.setRes i v).constructFailed = s.constructFailed := rfl
@[simp] theorem State.setRes_history (i : Fin 6) (v : Nat) (s : State) : (s.setRes i v).history = s.history := rfl
@[simp] theorem State.setRes_inProgress (i : Fin 6) (v : Nat) (s : State) :
    (s.setRes i v).inProgress = s.inProgress := rfl
@[simp] theorem State.setRes_bank (i : Fin 6) (v : Nat) (s : State) : (s.setRes i v).bank = s.bank := rfl
@[simp] theorem State.setRes_image (i : Fin 6) (v : Nat) (s : State) : (s.setRes i v).image = s.image := rfl
@[simp] theorem State.setRes_cfg (i : Fin 6) (v : Nat) (s : State) : (s.setRes i v).cfg = s.cfg := rfl
@[simp] theorem State.setRes_env (i : Fin 6) (v : Nat) (s : State) : (s.setRes i v).env = s.env := rfl
@[simp] theorem State.setRes_hosts (i : Fin 6) (v : Nat) (s : State) : (s.setRes i v).hosts = s.hosts := rfl
@[simp] theorem State.setRes_schedule (i : Fin 6) (v : Nat) (s : State) : (s.setRes i v).schedule = s.schedule := rfl
@[simp] theorem State.setRes_turn (i : Fin 6) (v : Nat) (s : State) : (s.setRes i v).turn = s.turn := rfl

/-! ### `State.setLocked` -/

@[simp] theorem State.setLocked_ifaces (b : Bool) (s : State) : (s.setLocked b).ifaces = s.ifaces := rfl
@[simp] theorem State.setLocked_poweredOn (b : Bool) (s : State) : (s.setLocked b).poweredOn = s.poweredOn := rfl
@[simp] theorem State.setLocked_locked (b : Bool) (s : State) : (s.setLocked b).locked = b := rfl
@[simp] theorem State.setLocked_currentVcoRate (b : Bool) (s : State) :
    (s.setLocked b).currentVcoRate = s.currentVcoRate := rfl
@[simp] theorem State.setLocked_cache (b : Bool) (s : State) : (s.setLocked b).cache = s.cache := rfl
@[simp] theorem State.setLocked_cacheStatus (b : Bool) (s : State) :
    (s.setLocked b).cacheStatus = s.cacheStatus := rfl
@[simp] theorem State.setLocked_postdivLock (b : Bool) (s : State) :
    (s.setLocked b).postdivLock = s.postdivLock := rfl
@[simp] theorem State.setLocked_gpdivLock (b : Bool) (s : State) : (s.setLocked b).gpdivLock = s.gpdivLock := rfl
@[simp] theorem State.setLocked_fault (b : Bool) (s : State) : (s.setLocked b).fault = s.fault := rfl
@[simp] theorem State.setLocked_refused (b : Bool) (s : State) : (s.setLocked b).refused = s.refused := rfl
@[simp] theorem State.setLocked_constructed (b : Bool) (s : State) :
    (s.setLocked b).constructed = s.constructed := rfl
@[simp] theorem State.setLocked_constructFailed (b : Bool) (s : State) :
    (s.setLocked b).constructFailed = s.constructFailed := rfl
@[simp] theorem State.setLocked_history (b : Bool) (s : State) : (s.setLocked b).history = s.history := rfl
@[simp] theorem State.setLocked_inProgress (b : Bool) (s : State) : (s.setLocked b).inProgress = s.inProgress := rfl
@[simp] theorem State.setLocked_bank (b : Bool) (s : State) : (s.setLocked b).bank = s.bank := rfl
@[simp] theorem State.setLocked_image (b : Bool) (s : State) : (s.setLocked b).image = s.image := rfl
@[simp] theorem State.setLocked_cfg (b : Bool) (s : State) : (s.setLocked b).cfg = s.cfg := rfl
@[simp] theorem State.setLocked_env (b : Bool) (s : State) : (s.setLocked b).env = s.env := rfl
@[simp] theorem State.setLocked_hosts (b : Bool) (s : State) : (s.setLocked b).hosts = s.hosts := rfl
@[simp] theorem State.setLocked_schedule (b : Bool) (s : State) : (s.setLocked b).schedule = s.schedule := rfl
@[simp] theorem State.setLocked_turn (b : Bool) (s : State) : (s.setLocked b).turn = s.turn := rfl

/-! ### `State.setPoweredOn` -/

@[simp] theorem State.setPoweredOn_ifaces (b : Bool) (s : State) : (s.setPoweredOn b).ifaces = s.ifaces := rfl
@[simp] theorem State.setPoweredOn_poweredOn (b : Bool) (s : State) : (s.setPoweredOn b).poweredOn = b := rfl
@[simp] theorem State.setPoweredOn_locked (b : Bool) (s : State) : (s.setPoweredOn b).locked = s.locked := rfl
@[simp] theorem State.setPoweredOn_currentVcoRate (b : Bool) (s : State) :
    (s.setPoweredOn b).currentVcoRate = s.currentVcoRate := rfl
@[simp] theorem State.setPoweredOn_cache (b : Bool) (s : State) : (s.setPoweredOn b).cache = s.cache := rfl
@[simp] theorem State.setPoweredOn_cacheStatus (b : Bool) (s : State) :
    (s.setPoweredOn b).cacheStatus = s.cacheStatus := rfl
@[simp] theorem State.setPoweredOn_postdivLock (b : Bool) (s : State) :
    (s.setPoweredOn b).postdivLock = s.postdivLock := rfl
@[simp] theorem State.setPoweredOn_gpdivLock (b : Bool) (s : State) :
    (s.setPoweredOn b).gpdivLock = s.gpdivLock := rfl
@[simp] theorem State.setPoweredOn_fault (b : Bool) (s : State) : (s.setPoweredOn b).fault = s.fault := rfl
@[simp] theorem State.setPoweredOn_refused (b : Bool) (s : State) : (s.setPoweredOn b).refused = s.refused := rfl
@[simp] theorem State.setPoweredOn_constructed (b : Bool) (s : State) :
    (s.setPoweredOn b).constructed = s.constructed := rfl
@[simp] theorem State.setPoweredOn_constructFailed (b : Bool) (s : State) :
    (s.setPoweredOn b).constructFailed = s.constructFailed := rfl
@[simp] theorem State.setPoweredOn_history (b : Bool) (s : State) : (s.setPoweredOn b).history = s.history := rfl
@[simp] theorem State.setPoweredOn_inProgress (b : Bool) (s : State) :
    (s.setPoweredOn b).inProgress = s.inProgress := rfl
@[simp] theorem State.setPoweredOn_bank (b : Bool) (s : State) : (s.setPoweredOn b).bank = s.bank := rfl
@[simp] theorem State.setPoweredOn_image (b : Bool) (s : State) : (s.setPoweredOn b).image = s.image := rfl
@[simp] theorem State.setPoweredOn_cfg (b : Bool) (s : State) : (s.setPoweredOn b).cfg = s.cfg := rfl
@[simp] theorem State.setPoweredOn_env (b : Bool) (s : State) : (s.setPoweredOn b).env = s.env := rfl
@[simp] theorem State.setPoweredOn_hosts (b : Bool) (s : State) : (s.setPoweredOn b).hosts = s.hosts := rfl
@[simp] theorem State.setPoweredOn_schedule (b : Bool) (s : State) : (s.setPoweredOn b).schedule = s.schedule := rfl
@[simp] theorem State.setPoweredOn_turn (b : Bool) (s : State) : (s.setPoweredOn b).turn = s.turn := rfl

/-! ### `State.setVcoRate` -/

@[simp] theorem State.setVcoRate_ifaces (t : Nat) (s : State) : (s.setVcoRate t).ifaces = s.ifaces := rfl
@[simp] theorem State.setVcoRate_poweredOn (t : Nat) (s : State) : (s.setVcoRate t).poweredOn = s.poweredOn := rfl
@[simp] theorem State.setVcoRate_locked (t : Nat) (s : State) : (s.setVcoRate t).locked = s.locked := rfl
@[simp] theorem State.setVcoRate_currentVcoRate (t : Nat) (s : State) :
    (s.setVcoRate t).currentVcoRate = BitVec.ofNat 64 t := rfl
@[simp] theorem State.setVcoRate_cache (t : Nat) (s : State) : (s.setVcoRate t).cache = s.cache := rfl
@[simp] theorem State.setVcoRate_cacheStatus (t : Nat) (s : State) :
    (s.setVcoRate t).cacheStatus = s.cacheStatus := rfl
@[simp] theorem State.setVcoRate_postdivLock (t : Nat) (s : State) :
    (s.setVcoRate t).postdivLock = s.postdivLock := rfl
@[simp] theorem State.setVcoRate_gpdivLock (t : Nat) (s : State) : (s.setVcoRate t).gpdivLock = s.gpdivLock := rfl
@[simp] theorem State.setVcoRate_fault (t : Nat) (s : State) : (s.setVcoRate t).fault = s.fault := rfl
@[simp] theorem State.setVcoRate_refused (t : Nat) (s : State) : (s.setVcoRate t).refused = s.refused := rfl
@[simp] theorem State.setVcoRate_constructed (t : Nat) (s : State) :
    (s.setVcoRate t).constructed = s.constructed := rfl
@[simp] theorem State.setVcoRate_constructFailed (t : Nat) (s : State) :
    (s.setVcoRate t).constructFailed = s.constructFailed := rfl
@[simp] theorem State.setVcoRate_history (t : Nat) (s : State) : (s.setVcoRate t).history = s.history := rfl
@[simp] theorem State.setVcoRate_inProgress (t : Nat) (s : State) : (s.setVcoRate t).inProgress = s.inProgress := rfl
@[simp] theorem State.setVcoRate_bank (t : Nat) (s : State) : (s.setVcoRate t).bank = s.bank := rfl
@[simp] theorem State.setVcoRate_image (t : Nat) (s : State) : (s.setVcoRate t).image = s.image := rfl
@[simp] theorem State.setVcoRate_cfg (t : Nat) (s : State) : (s.setVcoRate t).cfg = s.cfg := rfl
@[simp] theorem State.setVcoRate_env (t : Nat) (s : State) : (s.setVcoRate t).env = s.env := rfl
@[simp] theorem State.setVcoRate_hosts (t : Nat) (s : State) : (s.setVcoRate t).hosts = s.hosts := rfl
@[simp] theorem State.setVcoRate_schedule (t : Nat) (s : State) : (s.setVcoRate t).schedule = s.schedule := rfl
@[simp] theorem State.setVcoRate_turn (t : Nat) (s : State) : (s.setVcoRate t).turn = s.turn := rfl

/-! ### `State.setCache` -/

@[simp] theorem State.setCache_ifaces (c : Cache) (s : State) : (s.setCache c).ifaces = s.ifaces := rfl
@[simp] theorem State.setCache_poweredOn (c : Cache) (s : State) : (s.setCache c).poweredOn = s.poweredOn := rfl
@[simp] theorem State.setCache_locked (c : Cache) (s : State) : (s.setCache c).locked = s.locked := rfl
@[simp] theorem State.setCache_currentVcoRate (c : Cache) (s : State) :
    (s.setCache c).currentVcoRate = s.currentVcoRate := rfl
@[simp] theorem State.setCache_cache (c : Cache) (s : State) : (s.setCache c).cache = c := rfl
@[simp] theorem State.setCache_cacheStatus (c : Cache) (s : State) : (s.setCache c).cacheStatus = s.cacheStatus := rfl
@[simp] theorem State.setCache_postdivLock (c : Cache) (s : State) : (s.setCache c).postdivLock = s.postdivLock := rfl
@[simp] theorem State.setCache_gpdivLock (c : Cache) (s : State) : (s.setCache c).gpdivLock = s.gpdivLock := rfl
@[simp] theorem State.setCache_fault (c : Cache) (s : State) : (s.setCache c).fault = s.fault := rfl
@[simp] theorem State.setCache_refused (c : Cache) (s : State) : (s.setCache c).refused = s.refused := rfl
@[simp] theorem State.setCache_constructed (c : Cache) (s : State) : (s.setCache c).constructed = s.constructed := rfl
@[simp] theorem State.setCache_constructFailed (c : Cache) (s : State) :
    (s.setCache c).constructFailed = s.constructFailed := rfl
@[simp] theorem State.setCache_history (c : Cache) (s : State) : (s.setCache c).history = s.history := rfl
@[simp] theorem State.setCache_inProgress (c : Cache) (s : State) : (s.setCache c).inProgress = s.inProgress := rfl
@[simp] theorem State.setCache_bank (c : Cache) (s : State) : (s.setCache c).bank = s.bank := rfl
@[simp] theorem State.setCache_image (c : Cache) (s : State) : (s.setCache c).image = s.image := rfl
@[simp] theorem State.setCache_cfg (c : Cache) (s : State) : (s.setCache c).cfg = s.cfg := rfl
@[simp] theorem State.setCache_env (c : Cache) (s : State) : (s.setCache c).env = s.env := rfl
@[simp] theorem State.setCache_hosts (c : Cache) (s : State) : (s.setCache c).hosts = s.hosts := rfl
@[simp] theorem State.setCache_schedule (c : Cache) (s : State) : (s.setCache c).schedule = s.schedule := rfl
@[simp] theorem State.setCache_turn (c : Cache) (s : State) : (s.setCache c).turn = s.turn := rfl

/-! ### `State.setCacheStatus` -/

@[simp] theorem State.setCacheStatus_ifaces (c : CacheStatus) (s : State) :
    (s.setCacheStatus c).ifaces = s.ifaces := rfl
@[simp] theorem State.setCacheStatus_poweredOn (c : CacheStatus) (s : State) :
    (s.setCacheStatus c).poweredOn = s.poweredOn := rfl
@[simp] theorem State.setCacheStatus_locked (c : CacheStatus) (s : State) :
    (s.setCacheStatus c).locked = s.locked := rfl
@[simp] theorem State.setCacheStatus_currentVcoRate (c : CacheStatus) (s : State) :
    (s.setCacheStatus c).currentVcoRate = s.currentVcoRate := rfl
@[simp] theorem State.setCacheStatus_cache (c : CacheStatus) (s : State) : (s.setCacheStatus c).cache = s.cache := rfl
@[simp] theorem State.setCacheStatus_cacheStatus (c : CacheStatus) (s : State) :
    (s.setCacheStatus c).cacheStatus = c := rfl
@[simp] theorem State.setCacheStatus_postdivLock (c : CacheStatus) (s : State) :
    (s.setCacheStatus c).postdivLock = s.postdivLock := rfl
@[simp] theorem State.setCacheStatus_gpdivLock (c : CacheStatus) (s : State) :
    (s.setCacheStatus c).gpdivLock = s.gpdivLock := rfl
@[simp] theorem State.setCacheStatus_fault (c : CacheStatus) (s : State) : (s.setCacheStatus c).fault = s.fault := rfl
@[simp] theorem State.setCacheStatus_refused (c : CacheStatus) (s : State) :
    (s.setCacheStatus c).refused = s.refused := rfl
@[simp] theorem State.setCacheStatus_constructed (c : CacheStatus) (s : State) :
    (s.setCacheStatus c).constructed = s.constructed := rfl
@[simp] theorem State.setCacheStatus_constructFailed (c : CacheStatus) (s : State) :
    (s.setCacheStatus c).constructFailed = s.constructFailed := rfl
@[simp] theorem State.setCacheStatus_history (c : CacheStatus) (s : State) :
    (s.setCacheStatus c).history = s.history := rfl
@[simp] theorem State.setCacheStatus_inProgress (c : CacheStatus) (s : State) :
    (s.setCacheStatus c).inProgress = s.inProgress := rfl
@[simp] theorem State.setCacheStatus_bank (c : CacheStatus) (s : State) : (s.setCacheStatus c).bank = s.bank := rfl
@[simp] theorem State.setCacheStatus_image (c : CacheStatus) (s : State) : (s.setCacheStatus c).image = s.image := rfl
@[simp] theorem State.setCacheStatus_cfg (c : CacheStatus) (s : State) : (s.setCacheStatus c).cfg = s.cfg := rfl
@[simp] theorem State.setCacheStatus_env (c : CacheStatus) (s : State) : (s.setCacheStatus c).env = s.env := rfl
@[simp] theorem State.setCacheStatus_hosts (c : CacheStatus) (s : State) : (s.setCacheStatus c).hosts = s.hosts := rfl
@[simp] theorem State.setCacheStatus_schedule (c : CacheStatus) (s : State) :
    (s.setCacheStatus c).schedule = s.schedule := rfl
@[simp] theorem State.setCacheStatus_turn (c : CacheStatus) (s : State) : (s.setCacheStatus c).turn = s.turn := rfl

/-! ### `State.raiseFault` -/

@[simp] theorem State.raiseFault_ifaces (r : Fault) (s : State) : (s.raiseFault r).ifaces = s.ifaces := rfl
@[simp] theorem State.raiseFault_poweredOn (r : Fault) (s : State) : (s.raiseFault r).poweredOn = s.poweredOn := rfl
@[simp] theorem State.raiseFault_locked (r : Fault) (s : State) : (s.raiseFault r).locked = s.locked := rfl
@[simp] theorem State.raiseFault_currentVcoRate (r : Fault) (s : State) :
    (s.raiseFault r).currentVcoRate = s.currentVcoRate := rfl
@[simp] theorem State.raiseFault_cache (r : Fault) (s : State) : (s.raiseFault r).cache = s.cache := rfl
@[simp] theorem State.raiseFault_cacheStatus (r : Fault) (s : State) :
    (s.raiseFault r).cacheStatus = s.cacheStatus := rfl
@[simp] theorem State.raiseFault_postdivLock (r : Fault) (s : State) :
    (s.raiseFault r).postdivLock = s.postdivLock := rfl
@[simp] theorem State.raiseFault_gpdivLock (r : Fault) (s : State) : (s.raiseFault r).gpdivLock = s.gpdivLock := rfl
@[simp] theorem State.raiseFault_fault (r : Fault) (s : State) : (s.raiseFault r).fault = some r := rfl
@[simp] theorem State.raiseFault_refused (r : Fault) (s : State) : (s.raiseFault r).refused = s.refused := rfl
@[simp] theorem State.raiseFault_constructed (r : Fault) (s : State) :
    (s.raiseFault r).constructed = s.constructed := rfl
@[simp] theorem State.raiseFault_constructFailed (r : Fault) (s : State) :
    (s.raiseFault r).constructFailed = s.constructFailed := rfl
@[simp] theorem State.raiseFault_history (r : Fault) (s : State) : (s.raiseFault r).history = s.history := rfl
@[simp] theorem State.raiseFault_inProgress (r : Fault) (s : State) :
    (s.raiseFault r).inProgress = s.inProgress := rfl
@[simp] theorem State.raiseFault_bank (r : Fault) (s : State) : (s.raiseFault r).bank = s.bank := rfl
@[simp] theorem State.raiseFault_image (r : Fault) (s : State) : (s.raiseFault r).image = s.image := rfl
@[simp] theorem State.raiseFault_cfg (r : Fault) (s : State) : (s.raiseFault r).cfg = s.cfg := rfl
@[simp] theorem State.raiseFault_env (r : Fault) (s : State) : (s.raiseFault r).env = s.env := rfl
@[simp] theorem State.raiseFault_hosts (r : Fault) (s : State) : (s.raiseFault r).hosts = s.hosts := rfl
@[simp] theorem State.raiseFault_schedule (r : Fault) (s : State) : (s.raiseFault r).schedule = s.schedule := rfl
@[simp] theorem State.raiseFault_turn (r : Fault) (s : State) : (s.raiseFault r).turn = s.turn := rfl

/-! ### `State.markRefused` -/

@[simp] theorem State.markRefused_ifaces (r : Refusal) (s : State) : (s.markRefused r).ifaces = s.ifaces := rfl
@[simp] theorem State.markRefused_poweredOn (r : Refusal) (s : State) :
    (s.markRefused r).poweredOn = s.poweredOn := rfl
@[simp] theorem State.markRefused_locked (r : Refusal) (s : State) : (s.markRefused r).locked = s.locked := rfl
@[simp] theorem State.markRefused_currentVcoRate (r : Refusal) (s : State) :
    (s.markRefused r).currentVcoRate = s.currentVcoRate := rfl
@[simp] theorem State.markRefused_cache (r : Refusal) (s : State) : (s.markRefused r).cache = s.cache := rfl
@[simp] theorem State.markRefused_cacheStatus (r : Refusal) (s : State) :
    (s.markRefused r).cacheStatus = s.cacheStatus := rfl
@[simp] theorem State.markRefused_postdivLock (r : Refusal) (s : State) :
    (s.markRefused r).postdivLock = s.postdivLock := rfl
@[simp] theorem State.markRefused_gpdivLock (r : Refusal) (s : State) :
    (s.markRefused r).gpdivLock = s.gpdivLock := rfl
@[simp] theorem State.markRefused_fault (r : Refusal) (s : State) : (s.markRefused r).fault = s.fault := rfl
@[simp] theorem State.markRefused_refused (r : Refusal) (s : State) : (s.markRefused r).refused = some r := rfl
@[simp] theorem State.markRefused_constructed (r : Refusal) (s : State) :
    (s.markRefused r).constructed = s.constructed := rfl
@[simp] theorem State.markRefused_constructFailed (r : Refusal) (s : State) :
    (s.markRefused r).constructFailed = s.constructFailed := rfl
@[simp] theorem State.markRefused_history (r : Refusal) (s : State) : (s.markRefused r).history = s.history := rfl
@[simp] theorem State.markRefused_inProgress (r : Refusal) (s : State) :
    (s.markRefused r).inProgress = s.inProgress := rfl
@[simp] theorem State.markRefused_bank (r : Refusal) (s : State) : (s.markRefused r).bank = s.bank := rfl
@[simp] theorem State.markRefused_image (r : Refusal) (s : State) : (s.markRefused r).image = s.image := rfl
@[simp] theorem State.markRefused_cfg (r : Refusal) (s : State) : (s.markRefused r).cfg = s.cfg := rfl
@[simp] theorem State.markRefused_env (r : Refusal) (s : State) : (s.markRefused r).env = s.env := rfl
@[simp] theorem State.markRefused_hosts (r : Refusal) (s : State) : (s.markRefused r).hosts = s.hosts := rfl
@[simp] theorem State.markRefused_schedule (r : Refusal) (s : State) : (s.markRefused r).schedule = s.schedule := rfl
@[simp] theorem State.markRefused_turn (r : Refusal) (s : State) : (s.markRefused r).turn = s.turn := rfl

/-! ### `State.leave` -/

@[simp] theorem State.leave_ifaces (a : Nat) (s : State) : (s.leave a).ifaces = s.ifaces := rfl
@[simp] theorem State.leave_poweredOn (a : Nat) (s : State) : (s.leave a).poweredOn = s.poweredOn := rfl
@[simp] theorem State.leave_locked (a : Nat) (s : State) : (s.leave a).locked = s.locked := rfl
@[simp] theorem State.leave_currentVcoRate (a : Nat) (s : State) :
    (s.leave a).currentVcoRate = s.currentVcoRate := rfl
@[simp] theorem State.leave_cache (a : Nat) (s : State) : (s.leave a).cache = s.cache := rfl
@[simp] theorem State.leave_cacheStatus (a : Nat) (s : State) : (s.leave a).cacheStatus = s.cacheStatus := rfl
@[simp] theorem State.leave_postdivLock (a : Nat) (s : State) :
    (s.leave a).postdivLock = s.postdivLock.releaseBy a := rfl
@[simp] theorem State.leave_gpdivLock (a : Nat) (s : State) : (s.leave a).gpdivLock = s.gpdivLock.releaseBy a := rfl
@[simp] theorem State.leave_fault (a : Nat) (s : State) : (s.leave a).fault = s.fault := rfl
@[simp] theorem State.leave_refused (a : Nat) (s : State) : (s.leave a).refused = s.refused := rfl
@[simp] theorem State.leave_constructed (a : Nat) (s : State) : (s.leave a).constructed = s.constructed := rfl
@[simp] theorem State.leave_constructFailed (a : Nat) (s : State) :
    (s.leave a).constructFailed = s.constructFailed := rfl
@[simp] theorem State.leave_history (a : Nat) (s : State) : (s.leave a).history = s.history := rfl
@[simp] theorem State.leave_inProgress (a : Nat) (s : State) :
    (s.leave a).inProgress = Sparse.erase a s.inProgress := rfl
@[simp] theorem State.leave_bank (a : Nat) (s : State) : (s.leave a).bank = s.bank := rfl
@[simp] theorem State.leave_image (a : Nat) (s : State) : (s.leave a).image = s.image := rfl
@[simp] theorem State.leave_cfg (a : Nat) (s : State) : (s.leave a).cfg = s.cfg := rfl
@[simp] theorem State.leave_env (a : Nat) (s : State) : (s.leave a).env = s.env := rfl
@[simp] theorem State.leave_hosts (a : Nat) (s : State) : (s.leave a).hosts = s.hosts := rfl
@[simp] theorem State.leave_schedule (a : Nat) (s : State) : (s.leave a).schedule = s.schedule := rfl
@[simp] theorem State.leave_turn (a : Nat) (s : State) : (s.leave a).turn = s.turn := rfl

/-! ### `State.enter` -/

@[simp] theorem State.enter_ifaces (a : Nat) (w : Word) (s : State) : (s.enter a w).ifaces = s.ifaces := rfl
@[simp] theorem State.enter_poweredOn (a : Nat) (w : Word) (s : State) : (s.enter a w).poweredOn = s.poweredOn := rfl
@[simp] theorem State.enter_locked (a : Nat) (w : Word) (s : State) : (s.enter a w).locked = s.locked := rfl
@[simp] theorem State.enter_currentVcoRate (a : Nat) (w : Word) (s : State) :
    (s.enter a w).currentVcoRate = s.currentVcoRate := rfl
@[simp] theorem State.enter_cache (a : Nat) (w : Word) (s : State) : (s.enter a w).cache = s.cache := rfl
@[simp] theorem State.enter_cacheStatus (a : Nat) (w : Word) (s : State) :
    (s.enter a w).cacheStatus = s.cacheStatus := rfl
@[simp] theorem State.enter_postdivLock (a : Nat) (w : Word) (s : State) :
    (s.enter a w).postdivLock = s.postdivLock := rfl
@[simp] theorem State.enter_gpdivLock (a : Nat) (w : Word) (s : State) : (s.enter a w).gpdivLock = s.gpdivLock := rfl
@[simp] theorem State.enter_fault (a : Nat) (w : Word) (s : State) : (s.enter a w).fault = s.fault := rfl
@[simp] theorem State.enter_refused (a : Nat) (w : Word) (s : State) : (s.enter a w).refused = s.refused := rfl
@[simp] theorem State.enter_constructed (a : Nat) (w : Word) (s : State) :
    (s.enter a w).constructed = s.constructed := rfl
@[simp] theorem State.enter_constructFailed (a : Nat) (w : Word) (s : State) :
    (s.enter a w).constructFailed = s.constructFailed := rfl
@[simp] theorem State.enter_history (a : Nat) (w : Word) (s : State) : (s.enter a w).history = s.history := rfl
@[simp] theorem State.enter_inProgress (a : Nat) (w : Word) (s : State) :
    (s.enter a w).inProgress = Sparse.insert a w s.inProgress := rfl
@[simp] theorem State.enter_bank (a : Nat) (w : Word) (s : State) : (s.enter a w).bank = s.bank := rfl
@[simp] theorem State.enter_image (a : Nat) (w : Word) (s : State) : (s.enter a w).image = s.image := rfl
@[simp] theorem State.enter_cfg (a : Nat) (w : Word) (s : State) : (s.enter a w).cfg = s.cfg := rfl
@[simp] theorem State.enter_env (a : Nat) (w : Word) (s : State) : (s.enter a w).env = s.env := rfl
@[simp] theorem State.enter_hosts (a : Nat) (w : Word) (s : State) : (s.enter a w).hosts = s.hosts := rfl
@[simp] theorem State.enter_schedule (a : Nat) (w : Word) (s : State) : (s.enter a w).schedule = s.schedule := rfl
@[simp] theorem State.enter_turn (a : Nat) (w : Word) (s : State) : (s.enter a w).turn = s.turn := rfl

/-! ### `State.setHost` -/

@[simp] theorem State.setHost_ifaces (a : Nat) (h : HostSide) (s : State) : (s.setHost a h).ifaces = s.ifaces := rfl
@[simp] theorem State.setHost_poweredOn (a : Nat) (h : HostSide) (s : State) :
    (s.setHost a h).poweredOn = s.poweredOn := rfl
@[simp] theorem State.setHost_locked (a : Nat) (h : HostSide) (s : State) : (s.setHost a h).locked = s.locked := rfl
@[simp] theorem State.setHost_currentVcoRate (a : Nat) (h : HostSide) (s : State) :
    (s.setHost a h).currentVcoRate = s.currentVcoRate := rfl
@[simp] theorem State.setHost_cache (a : Nat) (h : HostSide) (s : State) : (s.setHost a h).cache = s.cache := rfl
@[simp] theorem State.setHost_cacheStatus (a : Nat) (h : HostSide) (s : State) :
    (s.setHost a h).cacheStatus = s.cacheStatus := rfl
@[simp] theorem State.setHost_postdivLock (a : Nat) (h : HostSide) (s : State) :
    (s.setHost a h).postdivLock = s.postdivLock := rfl
@[simp] theorem State.setHost_gpdivLock (a : Nat) (h : HostSide) (s : State) :
    (s.setHost a h).gpdivLock = s.gpdivLock := rfl
@[simp] theorem State.setHost_fault (a : Nat) (h : HostSide) (s : State) : (s.setHost a h).fault = s.fault := rfl
@[simp] theorem State.setHost_refused (a : Nat) (h : HostSide) (s : State) :
    (s.setHost a h).refused = s.refused := rfl
@[simp] theorem State.setHost_constructed (a : Nat) (h : HostSide) (s : State) :
    (s.setHost a h).constructed = s.constructed := rfl
@[simp] theorem State.setHost_constructFailed (a : Nat) (h : HostSide) (s : State) :
    (s.setHost a h).constructFailed = s.constructFailed := rfl
@[simp] theorem State.setHost_history (a : Nat) (h : HostSide) (s : State) :
    (s.setHost a h).history = s.history := rfl
@[simp] theorem State.setHost_inProgress (a : Nat) (h : HostSide) (s : State) :
    (s.setHost a h).inProgress = s.inProgress := rfl
@[simp] theorem State.setHost_bank (a : Nat) (h : HostSide) (s : State) : (s.setHost a h).bank = s.bank := rfl
@[simp] theorem State.setHost_image (a : Nat) (h : HostSide) (s : State) : (s.setHost a h).image = s.image := rfl
@[simp] theorem State.setHost_cfg (a : Nat) (h : HostSide) (s : State) : (s.setHost a h).cfg = s.cfg := rfl
@[simp] theorem State.setHost_env (a : Nat) (h : HostSide) (s : State) : (s.setHost a h).env = s.env := rfl
@[simp] theorem State.setHost_hosts (a : Nat) (h : HostSide) (s : State) :
    (s.setHost a h).hosts = Sparse.set (fun _ => HostSide.idle) a h s.hosts := rfl
@[simp] theorem State.setHost_schedule (a : Nat) (h : HostSide) (s : State) :
    (s.setHost a h).schedule = s.schedule := rfl
@[simp] theorem State.setHost_turn (a : Nat) (h : HostSide) (s : State) : (s.setHost a h).turn = s.turn := rfl

/-! ### `State.setProgram` -/

@[simp] theorem State.setProgram_ifaces (a : Nat) (p : List HostOp) (s : State) :
    (s.setProgram a p).ifaces = s.ifaces := rfl
@[simp] theorem State.setProgram_poweredOn (a : Nat) (p : List HostOp) (s : State) :
    (s.setProgram a p).poweredOn = s.poweredOn := rfl
@[simp] theorem State.setProgram_locked (a : Nat) (p : List HostOp) (s : State) :
    (s.setProgram a p).locked = s.locked := rfl
@[simp] theorem State.setProgram_currentVcoRate (a : Nat) (p : List HostOp) (s : State) :
    (s.setProgram a p).currentVcoRate = s.currentVcoRate := rfl
@[simp] theorem State.setProgram_cache (a : Nat) (p : List HostOp) (s : State) :
    (s.setProgram a p).cache = s.cache := rfl
@[simp] theorem State.setProgram_cacheStatus (a : Nat) (p : List HostOp) (s : State) :
    (s.setProgram a p).cacheStatus = s.cacheStatus := rfl
@[simp] theorem State.setProgram_postdivLock (a : Nat) (p : List HostOp) (s : State) :
    (s.setProgram a p).postdivLock = s.postdivLock := rfl
@[simp] theorem State.setProgram_gpdivLock (a : Nat) (p : List HostOp) (s : State) :
    (s.setProgram a p).gpdivLock = s.gpdivLock := rfl
@[simp] theorem State.setProgram_fault (a : Nat) (p : List HostOp) (s : State) :
    (s.setProgram a p).fault = s.fault := rfl
@[simp] theorem State.setProgram_refused (a : Nat) (p : List HostOp) (s : State) :
    (s.setProgram a p).refused = s.refused := rfl
@[simp] theorem State.setProgram_constructed (a : Nat) (p : List HostOp) (s : State) :
    (s.setProgram a p).constructed = s.constructed := rfl
@[simp] theorem State.setProgram_constructFailed (a : Nat) (p : List HostOp) (s : State) :
    (s.setProgram a p).constructFailed = s.constructFailed := rfl
@[simp] theorem State.setProgram_history (a : Nat) (p : List HostOp) (s : State) :
    (s.setProgram a p).history = s.history := rfl
@[simp] theorem State.setProgram_inProgress (a : Nat) (p : List HostOp) (s : State) :
    (s.setProgram a p).inProgress = s.inProgress := rfl
@[simp] theorem State.setProgram_bank (a : Nat) (p : List HostOp) (s : State) :
    (s.setProgram a p).bank = s.bank := rfl
@[simp] theorem State.setProgram_image (a : Nat) (p : List HostOp) (s : State) :
    (s.setProgram a p).image = s.image := rfl
@[simp] theorem State.setProgram_cfg (a : Nat) (p : List HostOp) (s : State) : (s.setProgram a p).cfg = s.cfg := rfl
@[simp] theorem State.setProgram_env (a : Nat) (p : List HostOp) (s : State) : (s.setProgram a p).env = s.env := rfl
@[simp] theorem State.setProgram_schedule (a : Nat) (p : List HostOp) (s : State) :
    (s.setProgram a p).schedule = s.schedule := rfl
@[simp] theorem State.setProgram_turn (a : Nat) (p : List HostOp) (s : State) :
    (s.setProgram a p).turn = s.turn := rfl

/-! ### `State.deliver` -/

@[simp] theorem State.deliver_ifaces (a : Nat) (v : DWord) (s : State) : (s.deliver a v).ifaces = s.ifaces := rfl
@[simp] theorem State.deliver_poweredOn (a : Nat) (v : DWord) (s : State) :
    (s.deliver a v).poweredOn = s.poweredOn := rfl
@[simp] theorem State.deliver_locked (a : Nat) (v : DWord) (s : State) : (s.deliver a v).locked = s.locked := rfl
@[simp] theorem State.deliver_currentVcoRate (a : Nat) (v : DWord) (s : State) :
    (s.deliver a v).currentVcoRate = s.currentVcoRate := rfl
@[simp] theorem State.deliver_cache (a : Nat) (v : DWord) (s : State) : (s.deliver a v).cache = s.cache := rfl
@[simp] theorem State.deliver_cacheStatus (a : Nat) (v : DWord) (s : State) :
    (s.deliver a v).cacheStatus = s.cacheStatus := rfl
@[simp] theorem State.deliver_postdivLock (a : Nat) (v : DWord) (s : State) :
    (s.deliver a v).postdivLock = s.postdivLock := rfl
@[simp] theorem State.deliver_gpdivLock (a : Nat) (v : DWord) (s : State) :
    (s.deliver a v).gpdivLock = s.gpdivLock := rfl
@[simp] theorem State.deliver_fault (a : Nat) (v : DWord) (s : State) : (s.deliver a v).fault = s.fault := rfl
@[simp] theorem State.deliver_refused (a : Nat) (v : DWord) (s : State) : (s.deliver a v).refused = s.refused := rfl
@[simp] theorem State.deliver_constructed (a : Nat) (v : DWord) (s : State) :
    (s.deliver a v).constructed = s.constructed := rfl
@[simp] theorem State.deliver_constructFailed (a : Nat) (v : DWord) (s : State) :
    (s.deliver a v).constructFailed = s.constructFailed := rfl
@[simp] theorem State.deliver_history (a : Nat) (v : DWord) (s : State) : (s.deliver a v).history = s.history := rfl
@[simp] theorem State.deliver_inProgress (a : Nat) (v : DWord) (s : State) :
    (s.deliver a v).inProgress = s.inProgress := rfl
@[simp] theorem State.deliver_bank (a : Nat) (v : DWord) (s : State) : (s.deliver a v).bank = s.bank := rfl
@[simp] theorem State.deliver_image (a : Nat) (v : DWord) (s : State) : (s.deliver a v).image = s.image := rfl
@[simp] theorem State.deliver_cfg (a : Nat) (v : DWord) (s : State) : (s.deliver a v).cfg = s.cfg := rfl
@[simp] theorem State.deliver_env (a : Nat) (v : DWord) (s : State) : (s.deliver a v).env = s.env := rfl
@[simp] theorem State.deliver_schedule (a : Nat) (v : DWord) (s : State) :
    (s.deliver a v).schedule = s.schedule := rfl
@[simp] theorem State.deliver_turn (a : Nat) (v : DWord) (s : State) : (s.deliver a v).turn = s.turn := rfl

/-! ### `finishCommand` -/

@[simp] theorem finishCommand_poweredOn (op : Byte) (e : ErrCode) (s : State) :
    (finishCommand op e s).poweredOn = s.poweredOn := rfl
@[simp] theorem finishCommand_locked (op : Byte) (e : ErrCode) (s : State) :
    (finishCommand op e s).locked = s.locked := rfl
@[simp] theorem finishCommand_currentVcoRate (op : Byte) (e : ErrCode) (s : State) :
    (finishCommand op e s).currentVcoRate = s.currentVcoRate := rfl
@[simp] theorem finishCommand_cache (op : Byte) (e : ErrCode) (s : State) :
    (finishCommand op e s).cache = s.cache := rfl
@[simp] theorem finishCommand_cacheStatus (op : Byte) (e : ErrCode) (s : State) :
    (finishCommand op e s).cacheStatus = s.cacheStatus := rfl
@[simp] theorem finishCommand_postdivLock (op : Byte) (e : ErrCode) (s : State) :
    (finishCommand op e s).postdivLock = s.postdivLock.releaseBy s.turn := rfl
@[simp] theorem finishCommand_gpdivLock (op : Byte) (e : ErrCode) (s : State) :
    (finishCommand op e s).gpdivLock = s.gpdivLock.releaseBy s.turn := rfl
@[simp] theorem finishCommand_fault (op : Byte) (e : ErrCode) (s : State) :
    (finishCommand op e s).fault = s.fault := rfl
@[simp] theorem finishCommand_refused (op : Byte) (e : ErrCode) (s : State) :
    (finishCommand op e s).refused = s.refused := rfl
@[simp] theorem finishCommand_constructed (op : Byte) (e : ErrCode) (s : State) :
    (finishCommand op e s).constructed = s.constructed := rfl
@[simp] theorem finishCommand_constructFailed (op : Byte) (e : ErrCode) (s : State) :
    (finishCommand op e s).constructFailed = s.constructFailed := rfl
@[simp] theorem finishCommand_history (op : Byte) (e : ErrCode) (s : State) :
    (finishCommand op e s).history = s.history ++ [.cmdEnd s.turn op e] := rfl
@[simp] theorem finishCommand_inProgress (op : Byte) (e : ErrCode) (s : State) :
    (finishCommand op e s).inProgress = Sparse.erase s.turn s.inProgress := rfl
@[simp] theorem finishCommand_bank (op : Byte) (e : ErrCode) (s : State) : (finishCommand op e s).bank = s.bank := rfl
@[simp] theorem finishCommand_image (op : Byte) (e : ErrCode) (s : State) :
    (finishCommand op e s).image = s.image := rfl
@[simp] theorem finishCommand_cfg (op : Byte) (e : ErrCode) (s : State) : (finishCommand op e s).cfg = s.cfg := rfl
@[simp] theorem finishCommand_env (op : Byte) (e : ErrCode) (s : State) : (finishCommand op e s).env = s.env := rfl
@[simp] theorem finishCommand_hosts (op : Byte) (e : ErrCode) (s : State) :
    (finishCommand op e s).hosts = s.hosts := rfl
@[simp] theorem finishCommand_schedule (op : Byte) (e : ErrCode) (s : State) :
    (finishCommand op e s).schedule = s.schedule := rfl
@[simp] theorem finishCommand_turn (op : Byte) (e : ErrCode) (s : State) : (finishCommand op e s).turn = s.turn := rfl

/-! ### Interfaces, hosts and stored bytes -/

@[simp] theorem State.iface_setIface_same (a : Nat) (f : Iface) (s : State) : (s.setIface a f).iface a = f :=
  Sparse.get_set_same _ a f s.ifaces

theorem State.iface_setIface_other {a b : Nat} (h : b ≠ a) (f : Iface) (s : State) :
    (s.setIface a f).iface b = s.iface b :=
  Sparse.get_set_other _ h f s.ifaces

@[simp] theorem State.iface_setRes_turn (i : Fin 6) (v : Nat) (s : State) :
    (s.setRes i v).iface s.turn = (s.iface s.turn).withRes i v :=
  State.iface_setIface_same _ _ _

theorem State.iface_setRes_other {b : Nat} (i : Fin 6) (v : Nat) (s : State) (h : b ≠ s.turn) :
    (s.setRes i v).iface b = s.iface b :=
  State.iface_setIface_other h _ _

/-- Whether an agent is the one that runs or another, `setRes` changes only the RES entry named. -/
theorem State.iface_setRes (i : Fin 6) (v : Nat) (s : State) (b : Nat) :
    (s.setRes i v).iface b = if b = s.turn then (s.iface b).withRes i v else s.iface b := by
  split
  · subst ‹b = s.turn›; simp
  · exact State.iface_setRes_other i v s ‹_›

theorem State.iface_setErr (a : Nat) (e : ErrCode) (s : State) (b : Nat) :
    (s.setErr a e).iface b = if b = a then { s.iface b with err := e.code } else s.iface b := by
  split
  · subst ‹b = a›; exact State.iface_setIface_same _ _ _
  · exact State.iface_setIface_other ‹_› _ _

theorem iface_finishCommand (op : Byte) (e : ErrCode) (s : State) (b : Nat) :
    (finishCommand op e s).iface b = if b = s.turn then { s.iface b with err := e.code } else s.iface b :=
  State.iface_setErr s.turn e s b

@[simp] theorem State.host_setHost_same (a : Nat) (h : HostSide) (s : State) : (s.setHost a h).host a = h :=
  Sparse.get_set_same _ a h s.hosts

theorem State.host_setHost_other {a b : Nat} (hb : b ≠ a) (h : HostSide) (s : State) :
    (s.setHost a h).host b = s.host b :=
  Sparse.get_set_other _ hb h s.hosts

@[simp] theorem State.stored_putByte_same (off : Nat) (v : Byte) (s : State) : (s.putByte off v).stored off = v :=
  Sparse.get_set_same _ off v s.bank

theorem State.stored_putByte_other {o off : Nat} (h : o ≠ off) (v : Byte) (s : State) :
    (s.putByte off v).stored o = s.stored o :=
  Sparse.get_set_other _ h v s.bank

/-- The stored byte depends on the bank and its image alone. -/
theorem State.stored_congr {s t : State} (hb : t.bank = s.bank) (hi : t.image = s.image) (off : Nat) :
    t.stored off = s.stored off := by
  simp [State.stored, hb, hi]

/-- An interface depends on the list of interfaces alone. -/
theorem State.iface_congr {s t : State} (h : t.ifaces = s.ifaces) (a : Nat) : t.iface a = s.iface a := by
  simp [State.iface, h]

@[simp] theorem State.stored_record (e : Event) (s : State) (off : Nat) :
    (s.record e).stored off = s.stored off := rfl
@[simp] theorem State.iface_record (e : Event) (s : State) (a : Nat) : (s.record e).iface a = s.iface a := rfl
@[simp] theorem State.stored_setRes (i : Fin 6) (v : Nat) (s : State) (off : Nat) :
    (s.setRes i v).stored off = s.stored off := rfl
@[simp] theorem stored_finishCommand (op : Byte) (e : ErrCode) (s : State) (off : Nat) :
    (finishCommand op e s).stored off = s.stored off := rfl
@[simp] theorem State.stored_setLocked (b : Bool) (s : State) (off : Nat) :
    (s.setLocked b).stored off = s.stored off := rfl
@[simp] theorem State.field_setLocked (b : Bool) (s : State) (f : FieldDesc) :
    (s.setLocked b).field f = s.field f := rfl
@[simp] theorem State.stored_setPoweredOn (b : Bool) (s : State) (off : Nat) :
    (s.setPoweredOn b).stored off = s.stored off := rfl
@[simp] theorem State.field_setPoweredOn (b : Bool) (s : State) (f : FieldDesc) :
    (s.setPoweredOn b).field f = s.field f := rfl
@[simp] theorem State.stored_setVcoRate (t : Nat) (s : State) (off : Nat) :
    (s.setVcoRate t).stored off = s.stored off := rfl
@[simp] theorem State.field_setVcoRate (t : Nat) (s : State) (f : FieldDesc) :
    (s.setVcoRate t).field f = s.field f := rfl
@[simp] theorem State.stored_setCache (c : Cache) (s : State) (off : Nat) :
    (s.setCache c).stored off = s.stored off := rfl
@[simp] theorem State.field_setCache (c : Cache) (s : State) (f : FieldDesc) :
    (s.setCache c).field f = s.field f := rfl
@[simp] theorem State.stored_setCacheStatus (c : CacheStatus) (s : State) (off : Nat) :
    (s.setCacheStatus c).stored off = s.stored off := rfl
@[simp] theorem State.field_setCacheStatus (c : CacheStatus) (s : State) (f : FieldDesc) :
    (s.setCacheStatus c).field f = s.field f := rfl

end Sys2Proof.Machine
end

