-- ==== Sys2Proof/Laws/Ops.lean ====
section
/-! SUPPORT. What each bank operation can do, said once: which fields of the state it may touch, what it stores, what
it reads, which events it records. -/

namespace Sys2Proof.Machine

/-! ### The fields a bank operation may touch -/

/-- A step over the bank: only the environment, the bank and the end of the history may differ, and the bank stays in
its canonical form. -/
def BankStep (s t : State) : Prop :=
  ∃ e b h, t = { s with env := e, bank := b, history := s.history ++ h } ∧
    (Memory.wf s.image s.bank = true → Memory.wf s.image b = true)

theorem BankStep.refl (s : State) : BankStep s s := ⟨s.env, s.bank, [], by simp, id⟩

theorem BankStep.trans {s t u : State} (h : BankStep s t) (h' : BankStep t u) : BankStep s u := by
  obtain ⟨e, b, l, rfl, k⟩ := h
  obtain ⟨e', b', l', rfl, k'⟩ := h'
  exact ⟨e', b', l ++ l', by simp, fun w => k' (k w)⟩

theorem BankStep.of_record (e : Event) (s : State) : BankStep s (s.record e) := ⟨s.env, s.bank, [e], rfl, id⟩

/-- A write inside the address space keeps the bank's canonical form (10 R40). -/
theorem Memory.wf_set {image bank : List Host.Cell} {off : Nat} (ho : off < 1024) (v : Byte)
    (h : Memory.wf image bank = true) : Memory.wf image (Sparse.set (imageByte image) off v bank) = true := by
  simp only [Memory.wf, Bool.and_eq_true, List.all_eq_true, decide_eq_true_eq] at h ⊢
  refine ⟨Sparse.wf_set _ h.1, fun e he => ?_⟩
  rcases Sparse.mem_set _ he with rfl | he
  · exact ho
  · exact h.2 e he

/-- The bank at reset lists nothing. -/
theorem reset_memory_wf : Memory.wf State.reset.image State.reset.bank = true := rfl

/-- Every register lies in the address space (10 R36). -/
theorem offset_lt (p : Params) (r : RegName) : p.offset r < 1024 := Fin.isLt _

section
variable {s t : State} (h : BankStep s t)
include h
theorem BankStep.ifaces : t.ifaces = s.ifaces := by obtain ⟨_, _, _, rfl, _⟩ := h; rfl
theorem BankStep.poweredOn : t.poweredOn = s.poweredOn := by obtain ⟨_, _, _, rfl, _⟩ := h; rfl
theorem BankStep.locked : t.locked = s.locked := by obtain ⟨_, _, _, rfl, _⟩ := h; rfl
theorem BankStep.currentVcoRate : t.currentVcoRate = s.currentVcoRate := by obtain ⟨_, _, _, rfl, _⟩ := h; rfl
theorem BankStep.cache : t.cache = s.cache := by obtain ⟨_, _, _, rfl, _⟩ := h; rfl
theorem BankStep.cacheStatus : t.cacheStatus = s.cacheStatus := by obtain ⟨_, _, _, rfl, _⟩ := h; rfl
theorem BankStep.postdivLock : t.postdivLock = s.postdivLock := by obtain ⟨_, _, _, rfl, _⟩ := h; rfl
theorem BankStep.gpdivLock : t.gpdivLock = s.gpdivLock := by obtain ⟨_, _, _, rfl, _⟩ := h; rfl
theorem BankStep.fault : t.fault = s.fault := by obtain ⟨_, _, _, rfl, _⟩ := h; rfl
theorem BankStep.refused : t.refused = s.refused := by obtain ⟨_, _, _, rfl, _⟩ := h; rfl
theorem BankStep.constructed : t.constructed = s.constructed := by obtain ⟨_, _, _, rfl, _⟩ := h; rfl
theorem BankStep.constructFailed : t.constructFailed = s.constructFailed := by obtain ⟨_, _, _, rfl, _⟩ := h; rfl
theorem BankStep.inProgress : t.inProgress = s.inProgress := by obtain ⟨_, _, _, rfl, _⟩ := h; rfl
theorem BankStep.image : t.image = s.image := by obtain ⟨_, _, _, rfl, _⟩ := h; rfl
theorem BankStep.cfg : t.cfg = s.cfg := by obtain ⟨_, _, _, rfl, _⟩ := h; rfl
theorem BankStep.hosts : t.hosts = s.hosts := by obtain ⟨_, _, _, rfl, _⟩ := h; rfl
theorem BankStep.schedule : t.schedule = s.schedule := by obtain ⟨_, _, _, rfl, _⟩ := h; rfl
theorem BankStep.turn : t.turn = s.turn := by obtain ⟨_, _, _, rfl, _⟩ := h; rfl
theorem BankStep.history : ∃ l, t.history = s.history ++ l := by obtain ⟨_, _, l, rfl, _⟩ := h; exact ⟨l, rfl⟩
end

/-! ### Draws -/

/-- A draw of the lock bit touches the environment alone. -/
theorem State.drawLock_env (s : State) : ∃ e, s.drawLock.2 = { s with env := e } := by
  unfold State.drawLock; split <;> exact ⟨_, rfl⟩

theorem State.drawRunning_env (s : State) : ∃ e, s.drawRunning.2 = { s with env := e } := by
  unfold State.drawRunning; split <;> exact ⟨_, rfl⟩

theorem State.drawRestore_env (s : State) : ∃ e, s.drawRestore.2 = { s with env := e } := by
  unfold State.drawRestore; split <;> exact ⟨_, rfl⟩

theorem State.drawConstruct_env (s : State) : ∃ e, s.drawConstruct.2 = { s with env := e } := by
  unfold State.drawConstruct; split <;> exact ⟨_, rfl⟩

theorem State.drawImage_env (s : State) : ∃ e, s.drawImage.2 = { s with env := e } := by
  unfold State.drawImage; split <;> exact ⟨_, rfl⟩

theorem State.drawRestore_bankStep (s : State) : BankStep s s.drawRestore.2 := by
  obtain ⟨e, h⟩ := s.drawRestore_env
  exact ⟨e, s.bank, [], by simp [h], id⟩

/-! ### Reading a byte -/

/-- A read touches the environment and records its one event. -/
theorem State.memRead_env (off : Nat) (s : State) :
    ∃ e, (s.memRead off).2 = ({ s with env := e } : State).record (.read off (s.memRead off).1) := by
  have hl : ∃ e, (overlayLock off (s.stored off, s)).2 = { s with env := e } := by
    unfold overlayLock
    split
    · exact s.drawLock_env
    · exact ⟨s.env, rfl⟩
  have hr : ∀ r : Byte × State, ∃ e, (overlayRunning off r).2 = { r.2 with env := e } := by
    intro r
    unfold overlayRunning
    split
    · exact r.2.drawRunning_env
    · exact ⟨r.2.env, rfl⟩
  obtain ⟨e, he⟩ := hl
  obtain ⟨e', he'⟩ := hr (overlayLock off (s.stored off, s))
  refine ⟨e', ?_⟩
  simp only [State.memRead]
  rw [he', he]

theorem State.memRead_bankStep (off : Nat) (s : State) : BankStep s (s.memRead off).2 := by
  obtain ⟨e, h⟩ := s.memRead_env off
  exact ⟨e, s.bank, _, h, id⟩

@[simp] theorem State.memRead_bank (off : Nat) (s : State) : (s.memRead off).2.bank = s.bank := by
  obtain ⟨e, h⟩ := s.memRead_env off
  simp [h]

@[simp] theorem State.memRead_stored (off o : Nat) (s : State) : (s.memRead off).2.stored o = s.stored o :=
  State.stored_congr (s.memRead_bank off) (s.memRead_bankStep off).image o

theorem State.memRead_history (off : Nat) (s : State) :
    (s.memRead off).2.history = s.history ++ [.read off (s.memRead off).1] := by
  obtain ⟨e, h⟩ := s.memRead_env off
  simp [h]

/-- A field apart from the volatile bits reads as stored (20 R45, R46). -/
theorem State.extract_memRead {f : FieldDesc} {s : State} {off : Nat}
    (hl : off = s.cfg.offset .lockStatus → f.mask &&& (s.cfg.fd .lock).mask = 0)
    (hr : off = s.cfg.offset .sysCtrl → f.mask &&& (s.cfg.fd .running).mask = 0) :
    f.extract (s.memRead off).1 = f.extract (s.stored off) := by
  have h1 : f.extract (overlayLock off (s.stored off, s)).1 = f.extract (s.stored off) := by
    unfold overlayLock
    split
    · exact extract_overlayBit_apart (hl ‹_›) _ _
    · rfl
  have hc : (overlayLock off (s.stored off, s)).2.cfg = s.cfg := by
    unfold overlayLock
    split
    · obtain ⟨e, h⟩ := s.drawLock_env; simp [h]
    · rfl
  rw [← h1]
  simp only [State.memRead, overlayRunning, hc]
  split
  · exact extract_overlayBit_apart (hr ‹_›) _ _
  · rfl

/-- A bit outside a drawn field stays (20 R46). -/
theorem getLsbD_overlayBit {f : FieldDesc} {k : Nat} (h : f.mask.getLsbD k = false) (d : Bool) (b : Byte) :
    (overlayBit f d b).getLsbD k = b.getLsbD k := by
  by_cases hk : k < 8
  · cases d <;> simp [overlayBit, h, hk, -BitVec.getLsbD_eq_getElem]
  · rw [BitVec.getLsbD_of_ge _ _ (by omega), BitVec.getLsbD_of_ge _ _ (by omega)]

/-- A byte read differs from the stored one in volatile bits alone (20 R45, R46; log entry 12). -/
theorem State.getLsbD_memRead {s : State} {off k : Nat}
    (hl : off = s.cfg.offset .lockStatus → (s.cfg.fd .lock).mask.getLsbD k = false)
    (hr : off = s.cfg.offset .sysCtrl → (s.cfg.fd .running).mask.getLsbD k = false) :
    (s.memRead off).1.getLsbD k = (s.stored off).getLsbD k := by
  have h1 : (overlayLock off (s.stored off, s)).1.getLsbD k = (s.stored off).getLsbD k := by
    unfold overlayLock
    split
    · exact getLsbD_overlayBit (hl ‹_›) _ _
    · rfl
  have hc : (overlayLock off (s.stored off, s)).2.cfg = s.cfg := by
    unfold overlayLock
    split
    · obtain ⟨e, h⟩ := s.drawLock_env; simp [h]
    · rfl
  rw [← h1]
  simp only [State.memRead, overlayRunning, hc]
  split
  · exact getLsbD_overlayBit (hr ‹_›) _ _
  · rfl

/-- A read of an offset other than LOCK_STATUS's takes no lock answer (20 R46). -/
theorem State.memRead_envLock {s : State} {off : Nat} (h : off ≠ s.cfg.offset .lockStatus) :
    (s.memRead off).2.env.lock = s.env.lock := by
  have hd : s.drawRunning.2.env.lock = s.env.lock := by
    unfold State.drawRunning
    split <;> rfl
  simp only [State.memRead, overlayLock, if_neg h, overlayRunning, State.record_env]
  split
  · exact hd
  · rfl

/-- An offset with no volatile field reads as stored (20 R45). -/
theorem State.memRead_plain {s : State} {off : Nat} (hl : off ≠ s.cfg.offset .lockStatus)
    (hr : off ≠ s.cfg.offset .sysCtrl) : s.memRead off = (s.stored off, s.record (.read off (s.stored off))) := by
  simp [State.memRead, overlayLock, overlayRunning, hl, hr]

/-! ### Writing a byte -/

theorem State.memWrite_bankStep {off : Nat} (h : off < 1024) (v : Byte) (s : State) : BankStep s (s.memWrite off v) :=
  ⟨s.env, _, [.write off v], rfl, Memory.wf_set h v⟩

@[simp] theorem State.memWrite_stored_same (off : Nat) (v : Byte) (s : State) : (s.memWrite off v).stored off = v :=
  State.stored_putByte_same off v s

theorem State.memWrite_stored_other {o off : Nat} (h : o ≠ off) (v : Byte) (s : State) :
    (s.memWrite off v).stored o = s.stored o :=
  State.stored_putByte_other h v s

@[simp] theorem State.memWrite_history (off : Nat) (v : Byte) (s : State) :
    (s.memWrite off v).history = s.history ++ [.write off v] := rfl

/-! ### Registers and fields -/

theorem State.regRead_bankStep (r : RegName) (s : State) : BankStep s (s.regRead r).2 :=
  s.memRead_bankStep _

@[simp] theorem State.regRead_stored (r : RegName) (s : State) (o : Nat) : (s.regRead r).2.stored o = s.stored o :=
  s.memRead_stored _ o

@[simp] theorem State.regRead_cfg (r : RegName) (s : State) : (s.regRead r).2.cfg = s.cfg :=
  (s.regRead_bankStep r).cfg

theorem State.regWrite_bankStep (r : RegName) (v : Byte) (s : State) : BankStep s (s.regWrite r v) :=
  s.memWrite_bankStep (offset_lt s.cfg r) v

theorem State.fieldRead_bankStep (f : FieldDesc) (s : State) : BankStep s (s.fieldRead f).2 :=
  s.regRead_bankStep f.reg

@[simp] theorem State.fieldRead_stored (f : FieldDesc) (s : State) (o : Nat) :
    (s.fieldRead f).2.stored o = s.stored o :=
  s.regRead_stored f.reg o

@[simp] theorem State.fieldRead_cfg (f : FieldDesc) (s : State) : (s.fieldRead f).2.cfg = s.cfg :=
  (s.fieldRead_bankStep f).cfg

theorem State.fieldRead_history (f : FieldDesc) (s : State) :
    (s.fieldRead f).2.history = s.history ++ [.read (s.cfg.offset f.reg) (s.regRead f.reg).1] :=
  s.memRead_history _

/-- A field whose bits share no volatile bit of its offset (20 R46). -/
def NonVolatile (p : Params) (f : FieldDesc) : Prop :=
  p.apart f (p.fd .lock) = true ∧ p.apart f (p.fd .running) = true

theorem NonVolatile.of_wellFormed {p : Params} (h : p.wellFormed = true) {a : FieldName} (hl : a ≠ .lock)
    (hr : a ≠ .running) : NonVolatile p (p.fd a) :=
  ⟨Params.wellFormed_apart h hl, Params.wellFormed_apart h hr⟩

theorem State.extract_regRead {s : State} {f : FieldDesc} (h : NonVolatile s.cfg f) :
    f.extract (s.regRead f.reg).1 = s.field f :=
  State.extract_memRead (fun ho => Params.apart_iff.mp h.1 ho) (fun ho => Params.apart_iff.mp h.2 ho)

/-- A non-volatile field reads as the bank holds it (20 R45, R47). -/
theorem State.fieldRead_value {s : State} {f : FieldDesc} (h : NonVolatile s.cfg f) :
    (s.fieldRead f).1 = s.field f :=
  State.extract_regRead h

theorem State.fieldWrite_bankStep (f : FieldDesc) (v : Nat) (s : State) : BankStep s (s.fieldWrite f v) := by
  unfold State.fieldWrite
  split
  · exact s.regWrite_bankStep _ _
  · exact (s.regRead_bankStep _).trans (State.regWrite_bankStep _ _ _)

/-- The byte a field write leaves in its register (20 R47). -/
theorem State.fieldWrite_stored_same (f : FieldDesc) (v : Nat) (s : State) :
    (s.fieldWrite f v).stored (s.cfg.offset f.reg) =
      if f.width = 8 then BitVec.ofNat 8 v else f.merge v (s.regRead f.reg).1 := by
  unfold State.fieldWrite State.regWrite
  split
  · simp
  · rw [State.regRead_cfg]; simp

theorem State.fieldWrite_stored_other {f : FieldDesc} {s : State} {o : Nat} (h : o ≠ s.cfg.offset f.reg) (v : Nat) :
    (s.fieldWrite f v).stored o = s.stored o := by
  unfold State.fieldWrite State.regWrite
  split
  · exact State.memWrite_stored_other h _ _
  · rw [State.regRead_cfg, State.memWrite_stored_other h]; simp

theorem FieldDesc.extract_full {f : FieldDesc} (hw : f.width = 8) (hl : f.lsb + f.width ≤ 8) (v : Nat) :
    f.extract (BitVec.ofNat 8 v) = v % 2 ^ f.width := by
  have h0 : f.lsb = 0 := by omega
  refine Nat.eq_of_testBit_eq (fun j => ?_)
  rw [f.testBit_extract, Nat.testBit_mod_two_pow, hw, h0, BitVec.getLsbD_ofNat]
  by_cases hj : j < 8 <;> simp [hj]

/-- A field written reads back as the value, truncated (20 R47). -/
theorem State.field_fieldWrite_same {f : FieldDesc} (h : f.lsb + f.width ≤ 8) (v : Nat) (s : State) :
    (s.fieldWrite f v).field f = v % 2 ^ f.width := by
  unfold State.field
  rw [(s.fieldWrite_bankStep f v).cfg, s.fieldWrite_stored_same]
  split
  · exact FieldDesc.extract_full ‹_› h v
  · exact FieldDesc.extract_merge h v _

theorem FieldDesc.mask_full {f : FieldDesc} (hw : f.width = 8) (hl : f.lsb + f.width ≤ 8) : f.mask = BitVec.allOnes 8 := by
  refine BitVec.eq_of_getLsbD_eq (fun k hk => ?_)
  have h0 : f.lsb = 0 := by omega
  rw [f.getLsbD_mask, hw, h0, BitVec.getLsbD_allOnes]
  simp [hk]

/-- A field apart from a field written keeps its value (20 R47). -/
theorem State.field_fieldWrite_apart {f g : FieldDesc} {s : State} (hg : g.lsb + g.width ≤ 8)
    (hf : NonVolatile s.cfg f) (h : s.cfg.apart f g = true) (v : Nat) :
    (s.fieldWrite g v).field f = s.field f := by
  unfold State.field
  rw [(s.fieldWrite_bankStep g v).cfg]
  by_cases ho : s.cfg.offset f.reg = s.cfg.offset g.reg
  · have hm := Params.apart_iff.mp h ho
    rw [ho, s.fieldWrite_stored_same]
    split
    · have hz : f.mask = 0 := by
        rw [FieldDesc.mask_full ‹_› hg] at hm
        rwa [BitVec.and_allOnes] at hm
      unfold FieldDesc.extract
      simp [hz]
    · rw [FieldDesc.extract_merge_apart hm]
      unfold State.regRead
      rw [State.extract_memRead (fun h' => Params.apart_iff.mp hf.1 (ho.trans h'))
        (fun h' => Params.apart_iff.mp hf.2 (ho.trans h'))]
  · rw [State.fieldWrite_stored_other ho]

theorem State.fieldWrite2_bankStep (f : FieldDesc) (v : Nat) (g : FieldDesc) (w : Nat) (s : State) :
    BankStep s (s.fieldWrite2 f v g w) := by
  unfold State.fieldWrite2
  split
  · exact (s.regRead_bankStep _).trans (State.regWrite_bankStep _ _ _)
  · exact (s.fieldWrite_bankStep _ _).trans (State.fieldWrite_bankStep _ _ _)

theorem State.fieldWrite2_stored_other {f g : FieldDesc} {s : State} {o : Nat} (hf : o ≠ s.cfg.offset f.reg)
    (hg : o ≠ s.cfg.offset g.reg) (v w : Nat) : (s.fieldWrite2 f v g w).stored o = s.stored o := by
  unfold State.fieldWrite2
  split
  · unfold State.regWrite
    rw [State.regRead_cfg, State.memWrite_stored_other hf]; simp
  · rw [State.fieldWrite_stored_other, State.fieldWrite_stored_other hf]
    rwa [(s.fieldWrite_bankStep f v).cfg]

/-- Two disjoint fields of one byte placed together are two merges (42 R125). -/
theorem FieldDesc.place_two {f g : FieldDesc} (h : f.mask &&& g.mask = 0) (v w : Nat) (b : Byte) :
    (b &&& ~~~(f.mask ||| g.mask)) ||| f.place v ||| g.place w = g.merge w (f.merge v b) := by
  refine BitVec.eq_of_getLsbD_eq (fun k hk => ?_)
  have hd := mask_disjoint h k
  have hp : (f.place v).getLsbD k = true → f.mask.getLsbD k = true := by
    unfold FieldDesc.place
    rw [BitVec.getLsbD_and]
    exact fun h => (Bool.and_eq_true_iff.mp h).2
  simp only [FieldDesc.merge, BitVec.getLsbD_or, BitVec.getLsbD_and, BitVec.getLsbD_not, hk, decide_true,
    Bool.true_and]
  revert hd hp
  generalize f.mask.getLsbD k = mf
  generalize g.mask.getLsbD k = mg
  generalize (f.place v).getLsbD k = pf
  cases mf <;> cases mg <;> cases pf <;> simp

/-! ### Sequences -/

theorem RegOp.run_bankStep (o : RegOp) (s : State) : BankStep s (o.run s) := by
  cases o with
  | field f v => exact s.fieldWrite_bankStep f v
  | field2 f v g w => exact s.fieldWrite2_bankStep f v g w
  | byte r v => exact s.regWrite_bankStep r v
  | delay us => exact BankStep.of_record _ s
  | barrier => exact BankStep.of_record _ s

theorem runOps_bankStep (l : List RegOp) (s : State) : BankStep s (runOps l s) := by
  induction l generalizing s with
  | nil => exact BankStep.refl s
  | cons o rest ih => exact (o.run_bankStep s).trans (ih _)

@[simp] theorem runOps_append (l l' : List RegOp) (s : State) : runOps (l ++ l') s = runOps l' (runOps l s) := by
  induction l generalizing s with
  | nil => rfl
  | cons o rest ih => exact ih _

/-- The registers an operation may write. -/
def RegOp.writes : RegOp → List RegName
  | .field f _ => [f.reg]
  | .field2 f _ g _ => [f.reg, g.reg]
  | .byte r _ => [r]
  | .delay _ => []
  | .barrier => []

theorem RegOp.run_stored_other {o : RegOp} {s : State} {off : Nat} (h : ∀ r ∈ o.writes, off ≠ s.cfg.offset r) :
    (o.run s).stored off = s.stored off := by
  cases o with
  | field f v => exact State.fieldWrite_stored_other (h _ (by simp [RegOp.writes])) v
  | field2 f v g w =>
    exact State.fieldWrite2_stored_other (h _ (by simp [RegOp.writes])) (h _ (by simp [RegOp.writes])) v w
  | byte r v => exact State.memWrite_stored_other (h _ (by simp [RegOp.writes])) v s
  | delay us => rfl
  | barrier => rfl

/-- A sequence leaves every byte outside the registers it may write as it was. -/
theorem runOps_stored_other {l : List RegOp} {s : State} {off : Nat}
    (h : ∀ o ∈ l, ∀ r ∈ o.writes, off ≠ s.cfg.offset r) : (runOps l s).stored off = s.stored off := by
  induction l generalizing s with
  | nil => rfl
  | cons o rest ih =>
    have hc := (o.run_bankStep s).cfg
    show (runOps rest (o.run s)).stored off = s.stored off
    rw [ih (fun o' ho' r hr => hc ▸ h o' (List.mem_cons_of_mem _ ho') r hr),
      RegOp.run_stored_other (h o List.mem_cons_self)]

/-! ### How a command ends -/

/-- Everything a command can answer (60 R200): stuck, DeviceAbsent, or one of its body's three endings. -/
theorem runCommand_cases {i : Instr} {body : State → Ending} {s t : State} (h : runCommand i body s = .next t) :
    s.stuck? = none ∧
    ((s.constructed = false ∧ t = finishCommand (opcode i) .deviceAbsent s) ∨
      (s.constructed = true ∧
        ((∃ e u, body s = .completes e u ∧ t = finishCommand (opcode i) e u) ∨
          (∃ r, body s = .faults r ∧ t = s.raiseFault r) ∨
          (∃ r, body s = .refuses r ∧ t = s.markRefused r)))) := by
  unfold runCommand at h
  split at h
  · rename_i o ho
    unfold State.stuck? at ho
    subst h
    split at ho
    · cases ho
    · split at ho <;> cases ho
  · rename_i hs
    refine ⟨hs, ?_⟩
    split at h
    · rename_i hc
      refine .inr ⟨hc, ?_⟩
      split at h
      · exact .inl ⟨_, _, by assumption, by cases h; rfl⟩
      · exact .inr (.inl ⟨_, by assumption, by cases h; rfl⟩)
      · exact .inr (.inr ⟨_, by assumption, by cases h; rfl⟩)
    · rename_i hc
      exact .inl ⟨by simpa using hc, by cases h; rfl⟩

/-- Neither marked faulted nor refused. -/
theorem State.stuck?_eq_none {s : State} : s.stuck? = none ↔ s.fault = none ∧ s.refused = none := by
  unfold State.stuck?
  cases s.fault <;> cases s.refused <;> simp

/-- A command whose body completes answers its completion. -/
theorem runCommand_completes {i : Instr} {body : State → Ending} {s u : State} {e : ErrCode} (hf : s.fault = none)
    (hr : s.refused = none) (hc : s.constructed = true) (hb : body s = .completes e u) :
    runCommand i body s = .next (finishCommand (opcode i) e u) := by
  simp [runCommand, State.stuck?_eq_none.mpr ⟨hf, hr⟩, hc, hb]

end Sys2Proof.Machine
end

