-- ==== Sys2Proof/Laws/Commands.lean ====
section
/-! SUPPORT. How a command's body and its completion compose: a body changes the bank, the runtime state and the cache
and appends its events; results are then written, and the command ends. -/

namespace Sys2Proof.Machine

/-! ### Bodies -/

/-- What a command's body may change before its results: the environment, the bank (kept canonical), the runtime
state, the cache, and the history by the events listed. -/
def BodyStep (s t : State) (evs : List Event) : Prop :=
  ∃ e b p l r c k, t = { s with env := e, bank := b, poweredOn := p, locked := l, currentVcoRate := r, cache := c,
                                cacheStatus := k, history := s.history ++ evs } ∧
    (Memory.wf s.image s.bank = true → Memory.wf s.image b = true)

theorem BodyStep.refl (s : State) : BodyStep s s [] :=
  ⟨s.env, s.bank, s.poweredOn, s.locked, s.currentVcoRate, s.cache, s.cacheStatus, by simp, id⟩

theorem BodyStep.trans {s t u : State} {a b : List Event} (h : BodyStep s t a) (h' : BodyStep t u b) :
    BodyStep s u (a ++ b) := by
  obtain ⟨_, _, _, _, _, _, _, rfl, k⟩ := h
  obtain ⟨e, b, p, l, r, c, x, rfl, k'⟩ := h'
  exact ⟨e, b, p, l, r, c, x, by simp [List.append_assoc], fun w => k' (k w)⟩

theorem BankStep.bodyStep {s t : State} {evs : List Event} (h : BankStep s t) (hh : t.history = s.history ++ evs) :
    BodyStep s t evs := by
  obtain ⟨e, b, l, rfl, k⟩ := h
  obtain rfl : l = evs := List.append_cancel_left hh
  exact ⟨e, b, _, _, _, _, _, rfl, k⟩

section
variable {s t : State} {evs : List Event} (h : BodyStep s t evs)
include h
theorem BodyStep.ifaces : t.ifaces = s.ifaces := by obtain ⟨_, _, _, _, _, _, _, rfl, _⟩ := h; rfl
theorem BodyStep.postdivLock : t.postdivLock = s.postdivLock := by obtain ⟨_, _, _, _, _, _, _, rfl, _⟩ := h; rfl
theorem BodyStep.gpdivLock : t.gpdivLock = s.gpdivLock := by obtain ⟨_, _, _, _, _, _, _, rfl, _⟩ := h; rfl
theorem BodyStep.inProgress : t.inProgress = s.inProgress := by obtain ⟨_, _, _, _, _, _, _, rfl, _⟩ := h; rfl
theorem BodyStep.turn : t.turn = s.turn := by obtain ⟨_, _, _, _, _, _, _, rfl, _⟩ := h; rfl
theorem BodyStep.cfg : t.cfg = s.cfg := by obtain ⟨_, _, _, _, _, _, _, rfl, _⟩ := h; rfl
theorem BodyStep.image : t.image = s.image := by obtain ⟨_, _, _, _, _, _, _, rfl, _⟩ := h; rfl
theorem BodyStep.history : t.history = s.history ++ evs := by obtain ⟨_, _, _, _, _, _, _, rfl, _⟩ := h; rfl
theorem BodyStep.memoryWf (w : Memory.wf s.image s.bank = true) : Memory.wf t.image t.bank = true := by
  obtain ⟨_, _, _, _, _, _, _, rfl, k⟩ := h; exact k w
theorem BodyStep.setup : SameSetup s t := by
  obtain ⟨_, _, _, _, _, _, _, rfl, _⟩ := h; exact ⟨rfl, rfl, ⟨rfl, rfl⟩, rfl, rfl, rfl, rfl, rfl⟩
end

/-! ### Results -/

/-- Write several results, in order. -/
def State.setAll (rs : List (Fin 6 × Nat)) (s : State) : State :=
  rs.foldl (fun s p => s.setRes p.1 p.2) s

theorem State.setAll_eq (rs : List (Fin 6 × Nat)) (s : State) :
    s.setAll rs = { s with ifaces := (s.setAll rs).ifaces } := by
  induction rs generalizing s with
  | nil => rfl
  | cons p rest ih => exact (ih (s.setRes p.1 p.2)).trans rfl

theorem State.setAll_turn (rs : List (Fin 6 × Nat)) (s : State) : (s.setAll rs).turn = s.turn := by
  rw [State.setAll_eq]

theorem State.iface_setAll_other (rs : List (Fin 6 × Nat)) (s : State) {b : Nat} (h : b ≠ s.turn) :
    (s.setAll rs).iface b = s.iface b := by
  induction rs generalizing s with
  | nil => rfl
  | cons p rest ih => exact (ih (s.setRes p.1 p.2) h).trans (State.iface_setRes_other _ _ _ h)

theorem State.iface_setAll_same (rs : List (Fin 6 × Nat)) (s : State) :
    (s.setAll rs).iface s.turn = rs.foldl (fun f p => f.withRes p.1 p.2) (s.iface s.turn) := by
  induction rs generalizing s with
  | nil => rfl
  | cons p rest ih =>
    show ((s.setRes p.1 p.2).setAll rest).iface s.turn = _
    have := ih (s.setRes p.1 p.2)
    rw [State.setRes_turn] at this
    rw [this, State.iface_setRes_turn]
    rfl

theorem Iface.withRes_args (i : Fin 6) (v : Nat) (f : Iface) :
    (f.withRes i v).arg0 = f.arg0 ∧ (f.withRes i v).arg1 = f.arg1 ∧ (f.withRes i v).err = f.err := ⟨rfl, rfl, rfl⟩

theorem Iface.readRes_withRes_same (i : Fin 6) (v : Nat) (f : Iface) :
    (f.withRes i v).readRes i = some (BitVec.ofNat 64 v) := by
  simp [Iface.readRes, Iface.withRes]

theorem Iface.withRes_other {i j : Fin 6} (h : i ≠ j) (v : Nat) (f : Iface) :
    (f.withRes i v).res[j.val] = f.res[j.val] ∧ (f.withRes i v).resv[j.val] = f.resv[j.val] := by
  have : i.val ≠ j.val := fun e => h (Fin.ext e)
  simp [Iface.withRes, Vector.getElem_set_ne, this]

/-- A fold of results leaves the registers it does not name. -/
theorem Iface.foldl_other (rs : List (Fin 6 × Nat)) (f : Iface) (j : Fin 6) (h : ∀ p ∈ rs, p.1 ≠ j) :
    (rs.foldl (fun f p => f.withRes p.1 p.2) f).res[j.val] = f.res[j.val] ∧
    (rs.foldl (fun f p => f.withRes p.1 p.2) f).resv[j.val] = f.resv[j.val] := by
  induction rs generalizing f with
  | nil => exact ⟨rfl, rfl⟩
  | cons p rest ih =>
    have := ih (f.withRes p.1 p.2) (fun q hq => h q (List.mem_cons_of_mem _ hq))
    have h' := Iface.withRes_other (h p List.mem_cons_self) p.2 f
    exact ⟨this.1.trans h'.1, this.2.trans h'.2⟩

/-- A fold of results that names each register once gives every value named. -/
theorem Iface.foldl_mem (rs : List (Fin 6 × Nat)) (f : Iface) (nd : (rs.map Prod.fst).Nodup) :
    ∀ p ∈ rs, (rs.foldl (fun f p => f.withRes p.1 p.2) f).readRes p.1 = some (BitVec.ofNat 64 p.2) := by
  induction rs generalizing f with
  | nil => simp
  | cons q rest ih =>
    intro p hp
    simp only [List.map_cons, List.nodup_cons] at nd
    rcases List.mem_cons.mp hp with rfl | hp
    · have h := Iface.foldl_other rest (f.withRes p.1 p.2) p.1
        (fun x hx e => nd.1 (e ▸ List.mem_map_of_mem hx))
      have hs := Iface.readRes_withRes_same p.1 p.2 f
      unfold Iface.readRes at hs ⊢
      simp only [List.foldl_cons, h.1, h.2]
      exact hs
    · exact ih (f.withRes q.1 q.2) nd.2 p hp

theorem Iface.foldl_args (rs : List (Fin 6 × Nat)) (f : Iface) :
    (rs.foldl (fun f p => f.withRes p.1 p.2) f).arg0 = f.arg0 ∧
    (rs.foldl (fun f p => f.withRes p.1 p.2) f).arg1 = f.arg1 := by
  induction rs generalizing f with
  | nil => exact ⟨rfl, rfl⟩
  | cons p rest ih => exact ih (f.withRes p.1 p.2)

/-! ### Completion -/

theorem Lock.releaseBy_eq (a : Nat) (l : Lock) : l.releaseBy a = if l = .held a then .free else l := rfl

/-- A body, then its results, then the completion: what the whole command changes (60 R200.1). -/
theorem BodyStep.ends {s v : State} {evs : List Event} {op : Byte} {e : ErrCode} {rs : List (Fin 6 × Nat)}
    (h : BodyStep s v evs) (nd : (rs.map Prod.fst).Nodup) :
    Ends op e rs evs s (finishCommand op e (v.setAll rs)) := by
  have hv := v.setAll_eq rs
  have ht : (v.setAll rs).turn = s.turn := (v.setAll_turn rs).trans h.turn
  have hi : ∀ b, v.iface b = s.iface b := State.iface_congr h.ifaces
  have hf : ∀ b, (finishCommand op e (v.setAll rs)).iface b =
      if b = s.turn then { (v.setAll rs).iface b with err := e.code } else (v.setAll rs).iface b := by
    intro b; rw [iface_finishCommand, ht]
  have hs : (v.setAll rs).iface s.turn = rs.foldl (fun f p => f.withRes p.1 p.2) (s.iface s.turn) := by
    have := v.iface_setAll_same rs
    rwa [h.turn, hi] at this
  refine ⟨?_, ⟨?_, ?_, ?_, ?_⟩, ⟨?_, ?_, ?_, ?_, ?_, ?_⟩, ?_⟩
  · have := h.setup
    rw [hv] at *
    exact this
  · rw [finishCommand_inProgress, ht]; exact Sparse.find?_erase_same _ _
  · intro b hb
    rw [finishCommand_inProgress, ht, Sparse.find?_erase_other hb, hv, h.inProgress]
  · rw [finishCommand_postdivLock, ht, hv, h.postdivLock]; rfl
  · rw [finishCommand_gpdivLock, ht, hv, h.gpdivLock]; rfl
  · intro b hb
    rw [hf, if_neg hb, State.iface_setAll_other rs v (h.turn ▸ hb), hi]
  · rw [hf, if_pos rfl, hs]; exact (Iface.foldl_args rs _).1
  · rw [hf, if_pos rfl, hs]; exact (Iface.foldl_args rs _).2
  · rw [hf, if_pos rfl]
  · intro p hp
    rw [hf, if_pos rfl, hs]
    exact Iface.foldl_mem rs _ nd p hp
  · intro i hne
    rw [hf, if_pos rfl, hs]
    exact Iface.foldl_other rs _ i hne
  · rw [finishCommand_history, ht, hv]
    show v.history ++ _ = _
    rw [h.history, List.append_assoc]

end Sys2Proof.Machine
end

