-- ==== Sys2Proof/Laws/Sequences.lean ====
section
/-! SUPPORT. Bank operations with the events they record, and what a sequence of them leaves in each field. -/

namespace Sys2Proof.Machine

/-! ### Events -/

theorem commitTrace_append (a b : List Event) : commitTrace (a ++ b) = commitTrace a ++ commitTrace b := by
  induction a with
  | nil => rfl
  | cons e rest ih => cases e <;> simp [commitTrace, ih]

theorem BodyStep.of_record (e : Event) (s : State) : BodyStep s (s.record e) [e] :=
  ⟨_, _, _, _, _, _, _, rfl, id⟩

theorem BodyStep.setLocked {s t : State} {evs : List Event} (h : BodyStep s t evs) (b : Bool) :
    BodyStep s (t.setLocked b) evs := by
  obtain ⟨_, _, _, _, _, _, _, rfl, k⟩ := h
  exact ⟨_, _, _, _, _, _, _, rfl, k⟩

theorem BodyStep.setPoweredOn {s t : State} {evs : List Event} (h : BodyStep s t evs) (b : Bool) :
    BodyStep s (t.setPoweredOn b) evs := by
  obtain ⟨_, _, _, _, _, _, _, rfl, k⟩ := h
  exact ⟨_, _, _, _, _, _, _, rfl, k⟩

theorem BodyStep.setVcoRate {s t : State} {evs : List Event} (h : BodyStep s t evs) (r : Nat) :
    BodyStep s (t.setVcoRate r) evs := by
  obtain ⟨_, _, _, _, _, _, _, rfl, k⟩ := h
  exact ⟨_, _, _, _, _, _, _, rfl, k⟩

theorem BodyStep.setCache {s t : State} {evs : List Event} (h : BodyStep s t evs) (c : Cache) :
    BodyStep s (t.setCache c) evs := by
  obtain ⟨_, _, _, _, _, _, _, rfl, k⟩ := h
  exact ⟨_, _, _, _, _, _, _, rfl, k⟩

theorem BodyStep.setCacheStatus {s t : State} {evs : List Event} (h : BodyStep s t evs) (c : CacheStatus) :
    BodyStep s (t.setCacheStatus c) evs := by
  obtain ⟨_, _, _, _, _, _, _, rfl, k⟩ := h
  exact ⟨_, _, _, _, _, _, _, rfl, k⟩

theorem State.regRead_body (r : RegName) (s : State) :
    BodyStep s (s.regRead r).2 [.read (s.cfg.offset r) (s.regRead r).1] :=
  (s.regRead_bankStep r).bodyStep (s.memRead_history _)

theorem State.fieldRead_body (f : FieldDesc) (s : State) :
    BodyStep s (s.fieldRead f).2 [.read (s.cfg.offset f.reg) (s.regRead f.reg).1] :=
  s.regRead_body f.reg

theorem State.regWrite_body (r : RegName) (v : Byte) (s : State) :
    BodyStep s (s.regWrite r v) [.write (s.cfg.offset r) v] :=
  (s.regWrite_bankStep r v).bodyStep rfl

/-- A write of a field that fills its byte is one event (20 R47). -/
theorem State.fieldWrite_body_full {f : FieldDesc} (h : f.width = 8) (v : Nat) (s : State) :
    BodyStep s (s.fieldWrite f v) [.write (s.cfg.offset f.reg) (BitVec.ofNat 8 v)] := by
  unfold State.fieldWrite
  rw [if_pos h]
  exact s.regWrite_body _ _

/-- A write of a narrower field is a read and a write of its byte (20 R47). -/
theorem State.fieldWrite_body_part {f : FieldDesc} (h : f.width ≠ 8) (v : Nat) (s : State) :
    BodyStep s (s.fieldWrite f v)
      [.read (s.cfg.offset f.reg) (s.regRead f.reg).1,
        .write (s.cfg.offset f.reg) (f.merge v (s.regRead f.reg).1)] := by
  unfold State.fieldWrite
  rw [if_neg h]
  have := (s.regRead_body f.reg).trans ((s.regRead f.reg).2.regWrite_body f.reg (f.merge v (s.regRead f.reg).1))
  rwa [State.regRead_cfg] at this

theorem State.fieldWrite_merge {f : FieldDesc} (h : f.width ≠ 8) (v : Nat) (s : State) :
    ∃ evs, MergeEvents s.cfg f v evs ∧ BodyStep s (s.fieldWrite f v) evs :=
  ⟨_, ⟨_, rfl⟩, State.fieldWrite_body_part h v s⟩

theorem State.fieldWrite_trace (f : FieldDesc) (v : Nat) (s : State) :
    ∃ evs, BodyStep s (s.fieldWrite f v) evs ∧ commitTrace evs = [.inl (s.cfg.offset f.reg)] := by
  by_cases h : f.width = 8
  · exact ⟨_, State.fieldWrite_body_full h v s, rfl⟩
  · exact ⟨_, State.fieldWrite_body_part h v s, rfl⟩

/-- Two fields of one register are written by one read and one write (42 R125). -/
theorem State.fieldWrite2_body_same {f g : FieldDesc} (h : f.reg = g.reg) (v w : Nat) (s : State) :
    BodyStep s (s.fieldWrite2 f v g w)
      [.read (s.cfg.offset f.reg) (s.regRead f.reg).1,
        .write (s.cfg.offset f.reg)
          (((s.regRead f.reg).1 &&& ~~~(f.mask ||| g.mask)) ||| f.place v ||| g.place w)] := by
  unfold State.fieldWrite2
  rw [if_pos h]
  have := (s.regRead_body f.reg).trans ((s.regRead f.reg).2.regWrite_body f.reg
    (((s.regRead f.reg).1 &&& ~~~(f.mask ||| g.mask)) ||| f.place v ||| g.place w))
  rwa [State.regRead_cfg] at this

/-! ### Fields -/

theorem State.field_congr {s t : State} {f : FieldDesc} (hc : t.cfg = s.cfg)
    (hs : t.stored (s.cfg.offset f.reg) = s.stored (s.cfg.offset f.reg)) : t.field f = s.field f := by
  unfold State.field
  rw [hc, hs]

theorem State.field_lt (f : FieldDesc) (s : State) : s.field f < 2 ^ f.width := FieldDesc.extract_lt _ _

/-- The byte a pair of disjoint fields of one register leaves (42 R125). -/
theorem State.fieldWrite2_stored_same {f g : FieldDesc} (h : f.reg = g.reg) (hd : f.mask &&& g.mask = 0) (v w : Nat)
    (s : State) :
    (s.fieldWrite2 f v g w).stored (s.cfg.offset f.reg) = g.merge w (f.merge v (s.regRead f.reg).1) := by
  unfold State.fieldWrite2 State.regWrite
  rw [if_pos h, State.regRead_cfg, State.memWrite_stored_same, FieldDesc.place_two hd]

theorem apart_mask {p : Params} {f g : FieldDesc} (h : p.apart f g = true) (hr : f.reg = g.reg) :
    f.mask &&& g.mask = 0 :=
  Params.apart_iff.mp h (by rw [hr])

theorem apart_symm {p : Params} {f g : FieldDesc} (h : p.apart f g = true) : p.apart g f = true := by
  rw [Params.apart_iff] at h ⊢
  intro ho
  rw [BitVec.and_comm]
  exact h ho.symm

/-- The first field of a pair reads back as its value. -/
theorem State.field_fieldWrite2_fst {f g : FieldDesc} {s : State} (hf : f.lsb + f.width ≤ 8)
    (hg : g.lsb + g.width ≤ 8) (hn : NonVolatile s.cfg f) (ha : s.cfg.apart f g = true) (v w : Nat) :
    (s.fieldWrite2 f v g w).field f = v % 2 ^ f.width := by
  by_cases h : f.reg = g.reg
  · unfold State.field
    rw [(s.fieldWrite2_bankStep f v g w).cfg, State.fieldWrite2_stored_same h (apart_mask ha h),
      FieldDesc.extract_merge_apart (apart_mask ha h), FieldDesc.extract_merge hf]
  · unfold State.fieldWrite2
    have hc := (s.fieldWrite_bankStep f v).cfg
    rw [if_neg h, State.field_fieldWrite_apart hg (hc ▸ hn) (hc ▸ ha), State.field_fieldWrite_same hf]

/-- The second field of a pair reads back as its value. -/
theorem State.field_fieldWrite2_snd {f g : FieldDesc} {s : State} (hg : g.lsb + g.width ≤ 8)
    (ha : s.cfg.apart f g = true) (v w : Nat) : (s.fieldWrite2 f v g w).field g = w % 2 ^ g.width := by
  by_cases h : f.reg = g.reg
  · unfold State.field
    rw [(s.fieldWrite2_bankStep f v g w).cfg, ← h, State.fieldWrite2_stored_same h (apart_mask ha h),
      FieldDesc.extract_merge hg]
  · unfold State.fieldWrite2
    rw [if_neg h, State.field_fieldWrite_same hg]

/-- A field apart from both fields of a pair keeps its value. -/
theorem State.field_fieldWrite2_apart {f g k : FieldDesc} {s : State} (hf : f.lsb + f.width ≤ 8)
    (hg : g.lsb + g.width ≤ 8) (hk : NonVolatile s.cfg k) (ha : s.cfg.apart f g = true)
    (hkf : s.cfg.apart k f = true) (hkg : s.cfg.apart k g = true) (v w : Nat) :
    (s.fieldWrite2 f v g w).field k = s.field k := by
  by_cases h : f.reg = g.reg
  · by_cases ho : s.cfg.offset k.reg = s.cfg.offset f.reg
    · unfold State.field
      rw [(s.fieldWrite2_bankStep f v g w).cfg, ho, State.fieldWrite2_stored_same h (apart_mask ha h),
        FieldDesc.extract_merge_apart (Params.apart_iff.mp hkg (h ▸ ho)),
        FieldDesc.extract_merge_apart (Params.apart_iff.mp hkf ho)]
      unfold State.regRead
      rw [State.extract_memRead (fun h' => Params.apart_iff.mp hk.1 (ho.trans h'))
        (fun h' => Params.apart_iff.mp hk.2 (ho.trans h'))]
    · refine State.field_congr (s.fieldWrite2_bankStep f v g w).cfg ?_
      exact State.fieldWrite2_stored_other ho (h ▸ ho) v w
  · unfold State.fieldWrite2
    have hc := (s.fieldWrite_bankStep f v).cfg
    rw [if_neg h, State.field_fieldWrite_apart hg (hc ▸ hk) (hc ▸ hkg), State.field_fieldWrite_apart hf hk hkf]

/-! ### Sequences -/

/-- What an operation adds to the trace: the offsets it writes and its delay. -/
def RegOp.trace (p : Params) : RegOp → List (Nat ⊕ Rat)
  | .field f _ => [.inl (p.offset f.reg)]
  | .field2 f _ g _ => if f.reg = g.reg then [.inl (p.offset f.reg)] else [.inl (p.offset f.reg), .inl (p.offset g.reg)]
  | .byte r _ => [.inl (p.offset r)]
  | .delay us => [.inr us]
  | .barrier => []

theorem RegOp.run_trace (o : RegOp) (s : State) :
    ∃ evs, BodyStep s (o.run s) evs ∧ commitTrace evs = o.trace s.cfg := by
  cases o with
  | field f v => exact s.fieldWrite_trace f v
  | field2 f v g w =>
    by_cases h : f.reg = g.reg
    · exact ⟨_, State.fieldWrite2_body_same h v w s, by simp [RegOp.trace, h, commitTrace]⟩
    · obtain ⟨a, ha, ta⟩ := s.fieldWrite_trace f v
      obtain ⟨b, hb, tb⟩ := (s.fieldWrite f v).fieldWrite_trace g w
      refine ⟨a ++ b, ?_, ?_⟩
      · simp only [RegOp.run, State.fieldWrite2, if_neg h]
        exact ha.trans hb
      · rw [commitTrace_append, ta, tb, ha.cfg]
        simp [RegOp.trace, h]
  | byte r v => exact ⟨_, s.regWrite_body r v, rfl⟩
  | delay us => exact ⟨_, BodyStep.of_record _ s, rfl⟩
  | barrier => exact ⟨_, BodyStep.of_record _ s, rfl⟩

/-- A sequence writes the offsets and delays of its operations, in the order of the list (20 R53). -/
theorem runOps_trace (l : List RegOp) (s : State) :
    ∃ evs, BodyStep s (runOps l s) evs ∧ commitTrace evs = l.flatMap (RegOp.trace s.cfg) := by
  induction l generalizing s with
  | nil => exact ⟨[], BodyStep.refl s, rfl⟩
  | cons o rest ih =>
    obtain ⟨a, ha, ta⟩ := o.run_trace s
    obtain ⟨b, hb, tb⟩ := ih (o.run s)
    exact ⟨a ++ b, ha.trans hb, by rw [commitTrace_append, ta, tb, ha.cfg]; rfl⟩

/-- A sequence of whole-byte writes records one event each (45 R182). -/
theorem runOps_bytes_body (l : List (RegName × Byte)) (s : State) :
    BodyStep s (runOps (l.map (fun x => .byte x.1 x.2)) s)
      (l.map (fun x => .write (s.cfg.offset x.1) x.2)) := by
  induction l generalizing s with
  | nil => exact BodyStep.refl s
  | cons x rest ih =>
    have h := ih (s.regWrite x.1 x.2)
    rw [(s.regWrite_bankStep x.1 x.2).cfg] at h
    exact (s.regWrite_body x.1 x.2).trans h

/-- The fields an operation writes lie in their bytes and apart from each other and from a field. -/
def RegOp.avoids (p : Params) (f : FieldDesc) : RegOp → Prop
  | .field g _ => g.lsb + g.width ≤ 8 ∧ p.apart f g = true
  | .field2 g _ k _ =>
    g.lsb + g.width ≤ 8 ∧ k.lsb + k.width ≤ 8 ∧ p.apart g k = true ∧ p.apart f g = true ∧ p.apart f k = true
  | .byte r _ => p.offset f.reg ≠ p.offset r
  | .delay _ => True
  | .barrier => True

theorem RegOp.run_field {o : RegOp} {f : FieldDesc} {s : State} (hf : NonVolatile s.cfg f) (h : o.avoids s.cfg f) :
    (o.run s).field f = s.field f := by
  cases o with
  | field g v => exact State.field_fieldWrite_apart h.1 hf h.2 v
  | field2 g v k w => exact State.field_fieldWrite2_apart h.1 h.2.1 hf h.2.2.1 h.2.2.2.1 h.2.2.2.2 v w
  | byte r v =>
    exact State.field_congr (s.regWrite_bankStep r v).cfg (State.memWrite_stored_other h v s)
  | delay us => rfl
  | barrier => rfl

/-- A sequence that avoids a field leaves it as it was. -/
theorem runOps_field {l : List RegOp} {f : FieldDesc} {s : State} (hf : NonVolatile s.cfg f)
    (h : ∀ o ∈ l, o.avoids s.cfg f) : (runOps l s).field f = s.field f := by
  induction l generalizing s with
  | nil => rfl
  | cons o rest ih =>
    have hc := (o.run_bankStep s).cfg
    show (runOps rest (o.run s)).field f = s.field f
    rw [ih (hc ▸ hf) (fun o' ho' => hc ▸ h o' (List.mem_cons_of_mem _ ho')),
      RegOp.run_field hf (h o List.mem_cons_self)]

/-- The last write of a field in a sequence is what the field holds after it. -/
theorem runOps_field_last {l l' : List RegOp} {f : FieldDesc} {v : Nat} {s : State} (hf : NonVolatile s.cfg f)
    (hl : f.lsb + f.width ≤ 8) (h : ∀ o ∈ l', o.avoids s.cfg f) :
    (runOps (l ++ .field f v :: l') s).field f = v % 2 ^ f.width := by
  rw [runOps_append]
  have hc : ((RegOp.field f v).run (runOps l s)).cfg = s.cfg :=
    ((RegOp.run_bankStep _ _).cfg).trans (runOps_bankStep l s).cfg
  show (runOps l' ((RegOp.field f v).run (runOps l s))).field f = _
  rw [runOps_field (hc ▸ hf) (hc ▸ h)]
  exact State.field_fieldWrite_same hl v _

/-- The last write of a pair of fields in a sequence is what the two fields hold after it (42 R125). -/
theorem runOps_field2_last {l l' : List RegOp} {f g : FieldDesc} {v w : Nat} {s : State}
    (hf : NonVolatile s.cfg f) (hg : NonVolatile s.cfg g) (hlf : f.lsb + f.width ≤ 8) (hlg : g.lsb + g.width ≤ 8)
    (ha : s.cfg.apart f g = true) (h : ∀ o ∈ l', o.avoids s.cfg f ∧ o.avoids s.cfg g) :
    (runOps (l ++ .field2 f v g w :: l') s).field f = v % 2 ^ f.width ∧
    (runOps (l ++ .field2 f v g w :: l') s).field g = w % 2 ^ g.width := by
  rw [runOps_append]
  have h1 : (runOps l s).cfg = s.cfg := (runOps_bankStep l s).cfg
  have hc : ((runOps l s).fieldWrite2 f v g w).cfg = s.cfg := ((runOps l s).fieldWrite2_bankStep f v g w).cfg.trans h1
  have hn : NonVolatile (runOps l s).cfg f := by rwa [h1]
  have ha' : (runOps l s).cfg.apart f g = true := by rwa [h1]
  show (runOps l' ((runOps l s).fieldWrite2 f v g w)).field f = _ ∧
    (runOps l' ((runOps l s).fieldWrite2 f v g w)).field g = _
  rw [runOps_field (by rwa [hc]) (by rw [hc]; exact fun o ho => (h o ho).1),
    runOps_field (by rwa [hc]) (by rw [hc]; exact fun o ho => (h o ho).2)]
  exact ⟨State.field_fieldWrite2_fst hlf hlg hn ha' v w, State.field_fieldWrite2_snd hlg ha' v w⟩

/-- The sequence writes the field, and nothing after its last write of it touches it. -/
def LastWrite (p : Params) (f : FieldDesc) (v : Nat) (l : List RegOp) : Prop :=
  ∃ l1 l2, l = l1 ++ .field f v :: l2 ∧ ∀ o ∈ l2, o.avoids p f

theorem LastWrite.one {p : Params} {f : FieldDesc} {v : Nat} : LastWrite p f v [.field f v] := ⟨[], [], rfl, by simp⟩

theorem LastWrite.field {f : FieldDesc} {v : Nat} {l : List RegOp} {s : State} (h : LastWrite s.cfg f v l)
    (hf : NonVolatile s.cfg f) (hl : f.lsb + f.width ≤ 8) : (runOps l s).field f = v % 2 ^ f.width := by
  obtain ⟨l1, l2, rfl, h⟩ := h
  exact runOps_field_last hf hl h

theorem LastWrite.append_left {p : Params} {f : FieldDesc} {v : Nat} {l : List RegOp} (l0 : List RegOp)
    (h : LastWrite p f v l) : LastWrite p f v (l0 ++ l) := by
  obtain ⟨l1, l2, rfl, h⟩ := h
  exact ⟨l0 ++ l1, l2, by simp, h⟩

theorem LastWrite.append_right {p : Params} {f : FieldDesc} {v : Nat} {l l0 : List RegOp} (h : LastWrite p f v l)
    (h0 : ∀ o ∈ l0, o.avoids p f) : LastWrite p f v (l ++ l0) := by
  obtain ⟨l1, l2, rfl, h⟩ := h
  refine ⟨l1, l2 ++ l0, by simp, fun o ho => ?_⟩
  rcases List.mem_append.1 ho with ho | ho
  · exact h o ho
  · exact h0 o ho

/-! ### Named fields of a well-formed configuration -/

variable {s : State}

theorem wf_fits (h : s.cfg.wellFormed = true) (a : FieldName) : (s.cfg.fd a).lsb + (s.cfg.fd a).width ≤ 8 :=
  (Params.wellFormed_inByte h a).2.2.2

theorem wf_field_write (h : s.cfg.wellFormed = true) (a : FieldName) (v : Nat) :
    (s.fieldWrite (s.cfg.fd a) v).field (s.cfg.fd a) = v % 2 ^ (s.cfg.fd a).width :=
  State.field_fieldWrite_same (wf_fits h a) v s

theorem wf_field_kept (h : s.cfg.wellFormed = true) {a b : FieldName} (hab : b ≠ a) (hl : b ≠ .lock)
    (hr : b ≠ .running) (v : Nat) : (s.fieldWrite (s.cfg.fd a) v).field (s.cfg.fd b) = s.field (s.cfg.fd b) :=
  State.field_fieldWrite_apart (wf_fits h a) (NonVolatile.of_wellFormed h hl hr) (Params.wellFormed_apart h hab) v

theorem wf_fieldRead (h : s.cfg.wellFormed = true) {a : FieldName} (hl : a ≠ .lock) (hr : a ≠ .running) :
    (s.fieldRead (s.cfg.fd a)).1 = s.field (s.cfg.fd a) :=
  State.fieldRead_value (NonVolatile.of_wellFormed h hl hr)

theorem wf_avoids_field (h : s.cfg.wellFormed = true) {a b : FieldName} (hab : b ≠ a) (v : Nat) :
    (RegOp.field (s.cfg.fd a) v).avoids s.cfg (s.cfg.fd b) :=
  ⟨wf_fits h a, Params.wellFormed_apart h hab⟩

theorem wf_avoids_field2 (h : s.cfg.wellFormed = true) {a b c : FieldName} (hca : c ≠ a) (hcb : c ≠ b) (hab : a ≠ b)
    (v w : Nat) : (RegOp.field2 (s.cfg.fd a) v (s.cfg.fd b) w).avoids s.cfg (s.cfg.fd c) :=
  ⟨wf_fits h a, wf_fits h b, Params.wellFormed_apart h hab, Params.wellFormed_apart h hca,
    Params.wellFormed_apart h hcb⟩

end Sys2Proof.Machine
end

