-- ==== Sys2Proof/Laws/Rate.lean ====
section
/-! SUPPORT. What the operations several commands share can do: the rate computation, the post-divider decode, the rate
transaction and the lock poll. -/

namespace Sys2Proof.Machine

/-! ### RecalcRate -/

theorem loopRate_eq {lo hi : Nat} (h : lo < 64) : loopRate lo hi = 19200000 * (64 * hi + lo) / 4 := by
  unfold loopRate Config.refClkHz
  rw [show (hi <<< 6) ||| lo = 2 ^ 6 * hi + lo from by rw [Nat.shiftLeft_eq, Nat.mul_comm, Nat.two_pow_add_eq_or_of_lt h]]
  rfl

theorem recalcRate_cheap {s : State} (h : s.currentVcoRate ≠ 0) : recalcRate s = (s.currentVcoRate.toNat, s) := by
  unfold recalcRate
  rw [if_pos h]

theorem recalcRate_readBack {s : State} (h : s.currentVcoRate = 0) :
    recalcRate s = (loopRate (s.fieldRead (s.cfg.fd .loopLo)).1
        ((s.fieldRead (s.cfg.fd .loopLo)).2.fieldRead (s.cfg.fd .loopHi)).1,
      ((s.fieldRead (s.cfg.fd .loopLo)).2.fieldRead (s.cfg.fd .loopHi)).2) := by
  simp [recalcRate, h]

/-- RecalcRate reads at most the two loop fields and writes nothing (43 R156). -/
theorem recalcRate_bankStep (s : State) : BankStep s (recalcRate s).2 := by
  by_cases h : s.currentVcoRate = 0
  · rw [recalcRate_readBack h]
    exact (s.fieldRead_bankStep _).trans (State.fieldRead_bankStep _ _)
  · rw [recalcRate_cheap h]
    exact BankStep.refl s

theorem recalcRate_stored (s : State) (off : Nat) : (recalcRate s).2.stored off = s.stored off := by
  by_cases h : s.currentVcoRate = 0
  · rw [recalcRate_readBack h]; simp
  · rw [recalcRate_cheap h]

/-- The two read events of the read-back, low field first. -/
theorem recalcRate_readBack_body {s : State} (h : s.currentVcoRate = 0) :
    ∃ b c, BodyStep s (recalcRate s).2 [.read (s.cfg.offset .loopDivLo) b, .read (s.cfg.offset .loopDivHi) c] := by
  rw [recalcRate_readBack h]
  have h1 := s.fieldRead_body (s.cfg.fd .loopLo)
  have h2 := (s.fieldRead (s.cfg.fd .loopLo)).2.fieldRead_body (s.cfg.fd .loopHi)
  rw [State.fieldRead_cfg] at h2
  exact ⟨_, _, h1.trans h2⟩

/-- The value read back, from what the bank holds. -/
theorem recalcRate_readBack_value {s : State} (hw : s.cfg.wellFormed = true) (h : s.currentVcoRate = 0) :
    (recalcRate s).1 =
      19200000 * (64 * s.field (s.cfg.fd .loopHi) + s.field (s.cfg.fd .loopLo)) / 4 := by
  rw [recalcRate_readBack h]
  have hc := s.fieldRead_cfg (s.cfg.fd .loopLo)
  have h1 : (s.fieldRead (s.cfg.fd .loopLo)).1 = s.field (s.cfg.fd .loopLo) := wf_fieldRead hw (by decide) (by decide)
  have h2 : ((s.fieldRead (s.cfg.fd .loopLo)).2.fieldRead (s.cfg.fd .loopHi)).1 = s.field (s.cfg.fd .loopHi) := by
    have := wf_fieldRead (s := (s.fieldRead (s.cfg.fd .loopLo)).2) (by rwa [hc]) (a := .loopHi) (by decide) (by decide)
    rw [hc] at this
    rw [this]
    exact State.field_congr hc (by simp)
  simp only [h1, h2]
  exact loopRate_eq (State.field_lt (s.cfg.fd .loopLo) s)

/-! ### The post-divider decode -/

/-- The decode reads two fields, answers from their bytes, and logs a pattern of no row (42 R124). -/
theorem postDivDecode_body (s : State) : ∃ b c lg,
    BodyStep s (postDivDecode s).2 ([.read (s.cfg.offset .vcoCntrl) b, .read (s.cfg.offset .cpBias) c] ++ lg) ∧
    (lg = match decodeRow s.cfg.postdivTable ((s.cfg.fd .vcoRange).extract b) ((s.cfg.fd .cpBias).extract c) with
      | some _ => []
      | none => [.log (.unmappedPostDivIndex ((s.cfg.fd .vcoRange).extract b) ((s.cfg.fd .cpBias).extract c))]) ∧
    (postDivDecode s).1 =
      decodePattern s.cfg.postdivTable ((s.cfg.fd .vcoRange).extract b) ((s.cfg.fd .cpBias).extract c) ∧
    (s.cfg.wellFormed = true → (s.cfg.fd .vcoRange).extract b = s.field (s.cfg.fd .vcoRange) ∧
      (s.cfg.fd .cpBias).extract c = s.field (s.cfg.fd .cpBias)) := by
  have h1 := s.fieldRead_body (s.cfg.fd .vcoRange)
  have h2 := (s.fieldRead (s.cfg.fd .vcoRange)).2.fieldRead_body (s.cfg.fd .cpBias)
  have hc := s.fieldRead_cfg (s.cfg.fd .vcoRange)
  rw [hc] at h2
  refine ⟨_, _, _, ?_, rfl, rfl, fun hw => ⟨wf_fieldRead hw (by decide) (by decide), ?_⟩⟩
  · refine (h1.trans h2).trans ?_
    show BodyStep _ (State.logIfUnmapped _ _ _) _
    unfold State.logIfUnmapped
    rw [State.fieldRead_cfg, State.fieldRead_cfg]
    simp only [State.fieldRead]
    split
    · rename_i he
      try rw [he]
      exact BodyStep.refl _
    · rename_i he
      try rw [he]
      exact BodyStep.of_record _ _
  · have := wf_fieldRead (s := (s.fieldRead (s.cfg.fd .vcoRange)).2) (by rwa [hc]) (a := .cpBias) (by decide) (by decide)
    rw [hc] at this
    exact this.trans (State.field_congr hc (by simp))

theorem State.logIfUnmapped_stored (rc bc : Nat) (s : State) (off : Nat) :
    (s.logIfUnmapped rc bc).stored off = s.stored off := by
  unfold State.logIfUnmapped; split <;> rfl

theorem State.logIfUnmapped_bankStep (rc bc : Nat) (s : State) : BankStep s (s.logIfUnmapped rc bc) := by
  unfold State.logIfUnmapped; split
  · exact BankStep.refl s
  · exact BankStep.of_record _ s

theorem postDivDecode_bankStep (s : State) : BankStep s (postDivDecode s).2 :=
  ((s.fieldRead_bankStep _).trans (State.fieldRead_bankStep _ _)).trans (State.logIfUnmapped_bankStep _ _ _)

theorem postDivDecode_stored (s : State) (off : Nat) : (postDivDecode s).2.stored off = s.stored off := by
  show (State.logIfUnmapped _ _ _).stored off = _
  rw [State.logIfUnmapped_stored]; simp

/-- The decode's answer, from what the bank holds. -/
theorem postDivDecode_value {s : State} (hw : s.cfg.wellFormed = true) :
    (postDivDecode s).1 =
      decodePattern s.cfg.postdivTable (s.field (s.cfg.fd .vcoRange)) (s.field (s.cfg.fd .cpBias)) := by
  have hc := s.fieldRead_cfg (s.cfg.fd .vcoRange)
  have h1 : (s.fieldRead (s.cfg.fd .vcoRange)).1 = s.field (s.cfg.fd .vcoRange) :=
    wf_fieldRead hw (by decide) (by decide)
  have h2 : ((s.fieldRead (s.cfg.fd .vcoRange)).2.fieldRead (s.cfg.fd .cpBias)).1 = s.field (s.cfg.fd .cpBias) := by
    have := wf_fieldRead (s := (s.fieldRead (s.cfg.fd .vcoRange)).2) (by rwa [hc]) (a := .cpBias) (by decide)
      (by decide)
    rw [hc] at this
    rw [this]
    exact State.field_congr hc (by simp)
  show decodePattern _ _ _ = _
  rw [h1, h2]

/-- The decode finds the first row equal to the pattern (42 R124). -/
theorem decodeRow_eq_some {t : Vector PostdivRow 6} {rc bc : Nat} (j : Fin 6) (hr : t[j.val].rc.toNat = rc)
    (hb : t[j.val].bc.toNat = bc)
    (hk : ∀ k : Fin 6, k < j → ¬(t[k.val].rc.toNat = rc ∧ t[k.val].bc.toNat = bc)) :
    decodeRow t rc bc = some j.val := by
  unfold decodeRow
  rw [List.findIdx?_eq_some_iff_getElem]
  refine ⟨by simp, by simp [hr, hb], fun k hkj => ?_⟩
  have := hk ⟨k, by omega⟩ hkj
  simpa using this

theorem decodeRow_eq_none {t : Vector PostdivRow 6} {rc bc : Nat}
    (hk : ∀ k : Fin 6, ¬(t[k.val].rc.toNat = rc ∧ t[k.val].bc.toNat = bc)) : decodeRow t rc bc = none := by
  unfold decodeRow
  rw [List.findIdx?_eq_none_iff]
  intro x hx
  obtain ⟨i, hi, rfl⟩ := List.mem_iff_getElem.mp hx
  have := hk ⟨i, by simpa using hi⟩
  simpa using this

/-! ### The rate transaction -/

theorem underPostdivLock_bankStep {α : Type} {f : State → α × State} (h : ∀ s, BankStep s (f s).2) (s : State) :
    BankStep s (underPostdivLock f s).2 := by
  obtain ⟨e, b, l, hh, k⟩ := h { s with postdivLock := .held s.turn }
  refine ⟨e, b, l, ?_, k⟩
  unfold underPostdivLock
  simp [hh]

/-- The decode under its lock only reads and may log. -/
theorem underPostdivLock_decode_body (s : State) :
    ∃ evs, BodyStep s (underPostdivLock postDivDecode s).2 evs ∧ commitTrace evs = [] := by
  obtain ⟨b, c, lg, h, hl, -⟩ := postDivDecode_body { s with postdivLock := .held s.turn }
  have e : commitTrace lg = [] := by rw [hl]; split <;> rfl
  obtain ⟨en, bk, p, l, r, cc, k, h, kk⟩ := h
  refine ⟨[.read (s.cfg.offset .vcoCntrl) b, .read (s.cfg.offset .cpBias) c] ++ lg,
    ⟨en, bk, p, l, r, cc, k, ?_, kk⟩, ?_⟩
  · unfold underPostdivLock
    simp [h]
  · rw [commitTrace_append, e]; rfl

/-- The rate transaction after its decode: a sequence of bank operations, then the two runtime effects (43 R154). -/
theorem rateTransaction_eq (t : Nat) (s : State) :
    rateTransaction t s =
      ((runOps (rateOps s.cfg (planFor s.cfg t (underPostdivLock postDivDecode s).1.1) (sscCompute t))
        (underPostdivLock postDivDecode s).2).setVcoRate t).setLocked false := rfl

theorem underPostdivLock_decode_stored (s : State) (off : Nat) :
    (underPostdivLock postDivDecode s).2.stored off = s.stored off :=
  (postDivDecode_stored { s with postdivLock := .held s.turn } off)

/-- What the rate transaction may write: the commit registers (43 R153). -/
theorem rateOps_writes (p : Params) (q : FreqPlan) (c : SscPlan) :
    ∀ o ∈ rateOps p q c, ∀ r ∈ o.writes, r ∈ rateRegs ∨ ∃ n, r = .ssc n := by
  have hd : ∀ (steps : List (List RegOp)) (ds : List Rat), (∀ st ∈ steps, ∀ o ∈ st, ∀ r ∈ o.writes,
      r ∈ rateRegs ∨ ∃ n, r = .ssc n) → ∀ o ∈ withDelays steps ds, ∀ r ∈ o.writes,
      r ∈ rateRegs ∨ ∃ n, r = .ssc n := by
    intro steps
    induction steps with
    | nil =>
      intro ds _ o ho
      simp [withDelays] at ho
    | cons st rest ih =>
      intro ds h o ho r hr
      cases ds with
      | nil =>
        simp only [withDelays, List.mem_flatten] at ho
        obtain ⟨l, hl, hol⟩ := ho
        exact h l hl o hol r hr
      | cons d ds =>
        simp only [withDelays, List.mem_append] at ho
        rcases ho with ho | ho | ho
        · exact h st List.mem_cons_self o ho r hr
        · unfold stepDelay at ho
          split at ho
          · cases ho
          · simp only [List.mem_singleton] at ho
            subst ho; cases hr
        · exact ih ds (fun l hl => h l (List.mem_cons_of_mem _ hl)) o ho r hr
  have hw : ∀ (r0 : RegName) (l : List FixedWrite), r0 ∈ rateRegs → ∀ o ∈ writeList r0 l, ∀ r ∈ o.writes,
      r ∈ rateRegs ∨ ∃ n, r = .ssc n := by
    intro r0 l h0 o ho r hr
    simp only [writeList, List.mem_map] at ho
    obtain ⟨w, _, rfl⟩ := ho
    simp only [RegOp.writes, FixedWrite.fd, List.mem_singleton] at hr
    exact .inl (hr ▸ h0)
  refine hd _ _ ?_
  intro st hst
  simp only [rateSteps, List.mem_cons, List.not_mem_nil, or_false] at hst
  rcases hst with rfl | rfl | rfl | rfl | rfl | rfl | rfl | rfl | rfl | rfl | rfl | rfl | rfl | rfl | rfl | rfl
  case inr.inr.inr.inr.inl => exact hw _ _ (by decide)
  case inr.inr.inr.inr.inr.inr.inl => exact hw _ _ (by decide)
  case inr.inr.inr.inr.inr.inr.inr.inl => exact hw _ _ (by decide)
  case inr.inr.inr.inr.inr.inr.inr.inr.inl => exact hw _ _ (by decide)
  case inr.inr.inr.inr.inr.inr.inr.inr.inr.inl => exact hw _ _ (by decide)
  case inr.inr.inr.inr.inr.inr.inr.inr.inr.inr.inr.inl => exact hw _ _ (by decide)
  case inr.inr.inr.inr.inr.inr.inr.inr.inr.inr.inr.inr.inl => exact hw _ _ (by decide)
  case inr.inr.inr.inr.inr.inr.inr.inr.inr.inr.inr.inr.inr.inl => exact hw _ _ (by decide)
  case inr.inr.inr.inr.inr.inr.inr.inr.inr.inr.inr.inr.inr.inr.inl => exact hw _ _ (by decide)
  case inr.inr.inr.inr.inr.inr.inr.inr.inr.inr.inr.inr.inr.inr.inr =>
    intro o ho r hr
    split at ho
    · simp only [sscOps, List.mem_map] at ho
      obtain ⟨e, _, rfl⟩ := ho
      simp only [RegOp.writes, SscEntry.fd, List.mem_singleton] at hr
      exact .inr ⟨e.n, hr⟩
    · cases ho
  all_goals
    intro o ho r hr
    simp only [List.mem_cons, List.not_mem_nil, or_false] at ho
    rcases ho with rfl | rfl <;>
      (simp only [RegOp.writes, Params.fd, List.mem_singleton] at hr; subst hr; exact .inl (by decide))

/-- The rate transaction leaves every byte outside its commit registers (43 R153). -/
theorem rateTransaction_stored_other (t : Nat) {s : State} {off : Nat} (h : OutsideRate s.cfg off) :
    (rateTransaction t s).stored off = s.stored off := by
  have hc := (underPostdivLock_bankStep postDivDecode_bankStep s).cfg
  rw [rateTransaction_eq]
  show (runOps _ _).stored off = _
  rw [runOps_stored_other, underPostdivLock_decode_stored]
  intro o ho r hr
  rw [hc]
  rcases rateOps_writes _ _ _ o ho r hr with hr | ⟨n, rfl⟩
  · exact h.1 r hr
  · exact h.2 n

/-- Steps that avoid a field still do with their delays. -/
theorem withDelays_avoids {p : Params} {f : FieldDesc} (steps : List (List RegOp)) (ds : List Rat)
    (h : ∀ st ∈ steps, ∀ o ∈ st, o.avoids p f) : ∀ o ∈ withDelays steps ds, o.avoids p f := by
  induction steps generalizing ds with
  | nil =>
    intro o ho
    simp [withDelays] at ho
  | cons st rest ih =>
    intro o ho
    cases ds with
    | nil =>
      simp only [withDelays, List.mem_flatten] at ho
      obtain ⟨l, hl, ho⟩ := ho
      exact h l hl o ho
    | cons d ds =>
      simp only [withDelays, List.mem_append] at ho
      rcases ho with ho | ho | ho
      · exact h st List.mem_cons_self o ho
      · unfold stepDelay at ho
        split at ho
        · cases ho
        · rw [List.mem_singleton] at ho
          subst ho
          trivial
      · exact ih ds (fun l hl => h l (List.mem_cons_of_mem _ hl)) o ho

/-- A step's last write of a field is the sequence's when no later step touches the field. -/
theorem withDelays_last {p : Params} {f : FieldDesc} {v : Nat} (a : List (List RegOp)) (st : List RegOp)
    (b : List (List RegOp)) (ds : List Rat) (h : LastWrite p f v st) (hb : ∀ st' ∈ b, ∀ o ∈ st', o.avoids p f) :
    LastWrite p f v (withDelays (a ++ st :: b) ds) := by
  induction a generalizing ds with
  | nil =>
    cases ds with
    | nil =>
      simp only [withDelays, List.nil_append, List.flatten_cons]
      exact h.append_right (fun o ho => let ⟨l, hl, ho⟩ := List.mem_flatten.1 ho; hb l hl o ho)
    | cons d ds =>
      have hd : ∀ o ∈ stepDelay d, o.avoids p f := by
        intro o ho
        unfold stepDelay at ho
        split at ho
        · cases ho
        · rw [List.mem_singleton] at ho
          subst ho
          trivial
      simp only [withDelays, List.nil_append]
      exact h.append_right (fun o ho => (List.mem_append.1 ho).elim (hd o) (withDelays_avoids b ds hb o))
  | cons x a ih =>
    cases ds with
    | nil =>
      have := (ih []).append_left x
      cases a <;> simpa [withDelays] using this
    | cons d ds =>
      simp only [withDelays, List.cons_append]
      exact ((ih ds).append_left _).append_left _

/-- A list of fixed values avoids every named field (10 R39). -/
theorem writeList_avoids {p : Params} (hw : p.wellFormed = true) (a : FieldName) {r : RegName} {l : List FixedWrite}
    (hl : (r, l) ∈ p.srLists) : ∀ o ∈ writeList r l, o.avoids p (p.fd a) := by
  intro o ho
  simp only [writeList, List.mem_map] at ho
  obtain ⟨w, hw', rfl⟩ := ho
  have hm : w.fd r ∈ p.listFields :=
    List.mem_append_left _ (List.mem_flatMap.2 ⟨_, hl, List.mem_map_of_mem hw'⟩)
  exact ⟨(Params.wellFormed_listInByte hw hm).2.2.2, apart_symm (Params.wellFormed_listApart hw hm a)⟩

/-- The SSC block avoids every named field (41 R110). -/
theorem sscOps_avoids {p : Params} (hw : p.wellFormed = true) (a : FieldName) (c : SscPlan) :
    ∀ o ∈ (if p.sscEnabled then sscOps p c else []), o.avoids p (p.fd a) := by
  intro o ho
  split at ho
  · simp only [sscOps, List.mem_map] at ho
    obtain ⟨e, he, rfl⟩ := ho
    have hm : e.fd ∈ p.listFields := List.mem_append_right _ (List.mem_map_of_mem he)
    exact ⟨(Params.wellFormed_listInByte hw hm).2.2.2, apart_symm (Params.wellFormed_listApart hw hm a)⟩
  · cases ho

/-- What the rate transaction leaves in a field that its sequence writes. -/
theorem rateTransaction_field {t : Nat} {s : State} {f : FieldDesc} {v : Nat} (hf : NonVolatile s.cfg f)
    (hl : f.lsb + f.width ≤ 8)
    (h : LastWrite s.cfg f v
      (rateOps s.cfg (planFor s.cfg t (underPostdivLock postDivDecode s).1.1) (sscCompute t))) :
    (rateTransaction t s).field f = v % 2 ^ f.width := by
  have hc := (underPostdivLock_bankStep postDivDecode_bankStep s).cfg
  rw [rateTransaction_eq]
  show (runOps _ _).field f = _
  exact LastWrite.field (by rwa [hc]) (by rwa [hc]) hl

/-! ### The lock poll -/

theorem lockPollFrom_hit {n : Nat} {s : State} (h : (s.fieldRead (s.cfg.fd .lock)).1 = 1) :
    lockPollFrom (n + 1) s = (true, (s.fieldRead (s.cfg.fd .lock)).2.setLocked true) := by
  simp only [lockPollFrom]
  rw [if_pos h]

theorem lockPollFrom_lastMiss {s : State} (h : (s.fieldRead (s.cfg.fd .lock)).1 ≠ 1) :
    lockPollFrom 1 s = (false, (s.fieldRead (s.cfg.fd .lock)).2.setLocked false) := by
  simp only [lockPollFrom]
  rw [if_neg h, if_pos trivial]

theorem lockPollFrom_miss {n : Nat} {s : State} (h : (s.fieldRead (s.cfg.fd .lock)).1 ≠ 1) :
    lockPollFrom (n + 2) s = lockPollFrom (n + 1) ((s.fieldRead (s.cfg.fd .lock)).2.delayUs Config.lockPollDelayUs) := by
  rw [lockPollFrom]
  rw [if_neg h, if_neg (Nat.succ_ne_zero n)]

/-- The lock poll with attempts left: its events, the bits it read, and what it writes (44 R161, R162). -/
theorem lockPollFrom_spec (n : Nat) (s : State) : ∃ (vs : List Byte) (env : Env),
    (lockPollFrom n s).2 =
      { s with env := env, locked := (lockPollFrom n s).1,
               history := s.history ++
                (vs.map (Event.read (s.cfg.offset .lockStatus))).intersperse (.delay 1000) } ∧
    ((lockPollFrom n s).1 = true → ∃ k, k < n ∧ vs.map (s.cfg.fd .lock).extract = List.replicate k 0 ++ [1]) ∧
    ((lockPollFrom n s).1 = false → vs.map (s.cfg.fd .lock).extract = List.replicate n 0) := by
  induction n generalizing s with
  | zero => exact ⟨[], s.env, by simp [lockPollFrom, State.setLocked], by simp [lockPollFrom], by simp⟩
  | succ n ih =>
    obtain ⟨e, he⟩ := s.memRead_env (s.cfg.offset .lockStatus)
    have hb : (s.fieldRead (s.cfg.fd .lock)).1 =
      (s.cfg.fd .lock).extract (s.memRead (s.cfg.offset .lockStatus)).1 := rfl
    have h2 : (s.fieldRead (s.cfg.fd .lock)).2 = (s.memRead (s.cfg.offset .lockStatus)).2 := rfl
    have hlt : (s.fieldRead (s.cfg.fd .lock)).1 < 2 := FieldDesc.extract_lt (s.cfg.fd .lock) _
    by_cases h1 : (s.fieldRead (s.cfg.fd .lock)).1 = 1
    · rw [lockPollFrom_hit h1]
      refine ⟨[(s.memRead (s.cfg.offset .lockStatus)).1], e, ?_, fun _ => ⟨0, by omega, ?_⟩, by simp⟩
      · rw [h2, he]; rfl
      · simp [← hb, h1]
    · have h0 : (s.fieldRead (s.cfg.fd .lock)).1 = 0 := by omega
      cases n with
      | zero =>
        rw [lockPollFrom_lastMiss h1]
        refine ⟨[(s.memRead (s.cfg.offset .lockStatus)).1], e, ?_, by simp, fun _ => ?_⟩
        · rw [h2, he]; rfl
        · simp [← hb, h0]
      | succ n =>
        rw [lockPollFrom_miss h1]
        obtain ⟨vs, env, hs, ht, hf⟩ := ih ((s.fieldRead (s.cfg.fd .lock)).2.delayUs Config.lockPollDelayUs)
        have hcfg : ((s.fieldRead (s.cfg.fd .lock)).2.delayUs Config.lockPollDelayUs).cfg = s.cfg :=
          s.fieldRead_cfg _
        rw [hcfg] at hs ht hf
        refine ⟨(s.memRead (s.cfg.offset .lockStatus)).1 :: vs, env, ?_, fun h => ?_, fun h => ?_⟩
        · have hne : vs ≠ [] := by
            rintro rfl
            cases hx : (lockPollFrom (n + 1)
                ((s.fieldRead (s.cfg.fd .lock)).2.delayUs Config.lockPollDelayUs)).1 with
            | true =>
              obtain ⟨k, _, hk⟩ := ht hx
              simp at hk
            | false =>
              have := hf hx
              simp [List.replicate_succ] at this
          obtain ⟨v, vs, rfl⟩ := List.exists_cons_of_ne_nil hne
          rw [hs, h2, he]
          simp [State.delayUs, State.record, Config.lockPollDelayUs]
        · obtain ⟨k, hk, hk'⟩ := ht h
          exact ⟨k + 1, by omega, by simp [hk', ← hb, h0, List.replicate_succ]⟩
        · simp [hf h, ← hb, h0, List.replicate_succ]

end Sys2Proof.Machine
end

