-- ==== Sys2Proof/Laws/Exec.lean ====
section
/-! SUPPORT. Everything `exec` can answer: each command's body as a body step and a list of results. -/

namespace Sys2Proof.Machine

/-! ### Bodies of the shared operations -/

theorem runOps_body (l : List RegOp) (s : State) : ∃ evs, BodyStep s (runOps l s) evs :=
  let ⟨evs, h, _⟩ := runOps_trace l s
  ⟨evs, h⟩

theorem recalcRate_body (s : State) : ∃ evs, BodyStep s (recalcRate s).2 evs :=
  let ⟨evs, h⟩ := (recalcRate_bankStep s).history
  ⟨evs, (recalcRate_bankStep s).bodyStep h⟩

theorem drawRestore_body (s : State) : BodyStep s s.drawRestore.2 [] := by
  obtain ⟨e, h⟩ := s.drawRestore_env
  rw [h]
  exact ⟨e, s.bank, s.poweredOn, s.locked, s.currentVcoRate, s.cache, s.cacheStatus, by simp, id⟩

theorem rateTransaction_body (t : Nat) (s : State) : ∃ evs, BodyStep s (rateTransaction t s) evs := by
  have hd := underPostdivLock_bankStep postDivDecode_bankStep s
  obtain ⟨a, ha⟩ := hd.history
  obtain ⟨b, hb⟩ := runOps_body (rateOps s.cfg (planFor s.cfg t (underPostdivLock postDivDecode s).1.1)
    (sscCompute t)) (underPostdivLock postDivDecode s).2
  exact ⟨a ++ b, (((hd.bodyStep ha).trans hb).setVcoRate t).setLocked false⟩

theorem lockPoll_body (s : State) : ∃ evs, BodyStep s (lockPoll s).2 evs := by
  obtain ⟨vs, env, h, _⟩ := lockPollFrom_spec Config.lockPollAttempts s
  exact ⟨_, env, s.bank, _, _, _, _, _, h, id⟩

theorem relock_body (s : State) : ∃ evs, BodyStep s (relock s).2 evs := by
  obtain ⟨a, ha⟩ := runOps_body (overrideOps s.cfg ++ toggleOps s.cfg) s
  obtain ⟨b, hb⟩ := lockPoll_body (runOps (overrideOps s.cfg ++ toggleOps s.cfg) s)
  unfold relock
  dsimp only
  split
  · obtain ⟨c, hc⟩ := runOps_body (clkselOps s.cfg)
      (lockPoll (runOps (overrideOps s.cfg ++ toggleOps s.cfg) s)).2
    exact ⟨_, (ha.trans hb).trans hc⟩
  · exact ⟨_, ha.trans hb⟩

theorem toggleAndPoll_body (s : State) : ∃ evs, BodyStep s (toggleAndPoll s).2 evs := by
  obtain ⟨a, ha⟩ := runOps_body (toggleOps s.cfg) s
  obtain ⟨b, hb⟩ := lockPoll_body (runOps (toggleOps s.cfg) s)
  unfold toggleAndPoll
  dsimp only
  split
  · exact ⟨_, (ha.trans hb).setPoweredOn true⟩
  · exact ⟨_, ha.trans hb⟩

theorem prepareBody_body (s : State) : ∃ evs, BodyStep s (prepareBody s).2 evs := by
  unfold prepareBody
  split
  · exact ⟨[], BodyStep.refl s⟩
  · have hr := s.fieldRead_body (s.cfg.fd .running)
    unfold prepareOff
    dsimp only
    split
    · obtain ⟨b, hb⟩ := relock_body (s.fieldRead (s.cfg.fd .running)).2
      split
      · obtain ⟨c, hc⟩ := toggleAndPoll_body (relock (s.fieldRead (s.cfg.fd .running)).2).2
        exact ⟨_, (hr.trans hb).trans hc⟩
      · exact ⟨_, hr.trans hb⟩
    · obtain ⟨c, hc⟩ := toggleAndPoll_body (s.fieldRead (s.cfg.fd .running)).2
      exact ⟨_, hr.trans hc⟩

theorem unprepareBody_body (s : State) : ∃ evs, BodyStep s (unprepareBody s) evs := by
  unfold unprepareBody
  split
  · obtain ⟨a, ha⟩ := runOps_body (unprepareOps s.cfg) s
    exact ⟨a, (ha.setPoweredOn false).setLocked false⟩
  · exact ⟨[], BodyStep.refl s⟩

theorem enableBody_body (s : State) : ∃ evs, BodyStep s (enableBody s) evs := by
  unfold enableBody
  split
  · exact runOps_body _ s
  · exact ⟨[], BodyStep.refl s⟩

theorem postdivSelect_body (i : Fin 6) (s : State) : ∃ evs, BodyStep s (postdivSelect i s) evs := by
  obtain ⟨a, ha⟩ := recalcRate_body s
  obtain ⟨b, hb⟩ := runOps_body (postdivOps s.cfg s.cfg.postdivTable[i.val]
    (subRange s.cfg (mhz ((recalcRate s).1 >>> i.val))).toNat) (recalcRate s).2
  exact ⟨_, ha.trans hb⟩

theorem captureBytes_body (s : State) : ∃ evs, BodyStep s (captureBytes s).2 evs :=
  ⟨_, (((s.regRead_body .vcoCntrl).trans (State.regRead_body .cpBias _)).trans
    (State.regRead_body .pllCntrl _)).trans (State.regRead_body .pixdiv _)⟩

theorem captureRate_body (s : State) : ∃ evs, BodyStep s (captureRate s).2 evs := by
  obtain ⟨a, ha⟩ := lockPoll_body s
  unfold captureRate
  dsimp only
  split
  · obtain ⟨b, hb⟩ := recalcRate_body (lockPoll s).2
    exact ⟨_, ha.trans hb⟩
  · exact ⟨_, ha⟩

theorem restoreRun_body (c : Cache) (s : State) : ∃ evs, BodyStep s (restoreRun c s).2 evs := by
  obtain ⟨a, ha⟩ := rateTransaction_body c.rate.toNat s
  have hd := drawRestore_body (rateTransaction c.rate.toNat s)
  unfold restoreRun
  dsimp only
  split
  · obtain ⟨b, hb⟩ := runOps_body (restoreOps c) (rateTransaction c.rate.toNat s).drawRestore.2
    exact ⟨_, ((ha.trans hd).trans hb).setCacheStatus .consumed⟩
  · exact ⟨_, ha.trans hd⟩

/-! ### Every command -/

/-- How a command's body may end: a body step and a list of results, or a mark. -/
inductive EndsAs (s : State) : Ending → Prop where
  | completes (e : ErrCode) (v : State) (evs : List Event) (rs : List (Fin 6 × Nat)) (h : BodyStep s v evs)
      (nd : (rs.map Prod.fst).Nodup) : EndsAs s (.completes e (v.setAll rs))
  | faults (r : Fault) : EndsAs s (.faults r)
  | refuses (r : Refusal) : EndsAs s (.refuses r)

/-- A completion whose results are written last. -/
theorem EndsAs.of_body {s v : State} {e : ErrCode} (h : ∃ evs, BodyStep s v evs) (rs : List (Fin 6 × Nat))
    (nd : (rs.map Prod.fst).Nodup) : EndsAs s (.completes e (v.setAll rs)) :=
  let ⟨evs, h⟩ := h
  .completes e v evs rs h nd

/-- The body of each command, as `exec` runs it. -/
def bodyOf : Instr → State → Ending
  | .multX100 => fun s => .completes .ok ((s.setRes 0 (multX100 s.arg0).1).setRes 1 (multX100 s.arg0).2)
  | .gcd => fun s => .completes .ok (s.setRes 0 (gcd s.arg0 s.arg1))
  | .plan => planBody
  | .sscCompute => fun s =>
    if sscOutOfDomain s.arg0 then .refuses .sscOutOfExactDomain
    else .completes .ok (s.setSsc (sscCompute s.arg0))
  | .roundRate => fun s =>
    .completes .ok (s.setRes 0 (clamp s.arg0 Config.minPllRateHz Config.maxPllRateHz))
  | .setRate => fun s =>
    if rateRefused s.cfg s.arg0 then .refuses .sscOutOfExactDomain
    else .completes .ok (rateTransaction s.arg0 s)
  | .recalcRate => fun s => .completes .ok ((recalcRate s).2.setRes 0 (recalcRate s).1)
  | .prepare => fun s => .completes (prepareBody s).1 (prepareBody s).2
  | .unprepare => fun s => .completes .ok (unprepareBody s)
  | .enable => fun s => .completes .ok (enableBody s)
  | .isEnabled => fun s => .completes .ok ((lockPoll s).2.setRes 0 (if (lockPoll s).1 then 1 else 0))
  | .postdivSet => postdivSetBody
  | .postdivGet => fun s => .completes .ok (postdivGetBody s)
  | .gpdivSet => gpdivSetBody
  | .gpdivGet => fun s => .completes .ok (gpdivGetBody s)
  | .pixdivRoundRate => fun s =>
    .completes .ok ((s.setRes 0 (pixRate s.arg1 (pixRatio s.arg0 s.arg1))).setRes 1 (pixRatio s.arg0 s.arg1))
  | .pixdivSetRate => fun s => .completes .ok (pixdivSetBody s)
  | .pixdivRecalcRate => fun s => .completes .ok (pixdivRecalcBody s)
  | .save => fun s => .completes .ok (saveBody s)
  | .restore => restoreBody

/-- Every command is its body run by `runCommand`. -/
theorem exec_eq (i : Instr) (s : State) : exec i s = runCommand i (bodyOf i) s := by
  cases i <;> rfl

theorem State.setPlan_eq (q : FreqPlan) (s : State) : s.setPlan q =
    s.setAll [(0, q.hs.toNat), (1, q.osc.toNat), (2, q.ratio), (3, q.fsm), (4, loopLow q.ratio),
      (5, loopHigh q.ratio)] := rfl

theorem State.setSsc_eq (q : SscPlan) (s : State) : s.setSsc q =
    s.setAll [(0, q.peak), (1, q.step), (2, q.mint), (3, q.fden), (4, q.fquot), (5, q.frem)] := rfl

theorem pixdivSetBody_eq (s : State) : pixdivSetBody s =
    (s.fieldWrite (s.cfg.fd .pixdiv) (pixRatio s.arg0 s.arg1 - 1)).setAll [(1, pixRatio s.arg0 s.arg1)] := rfl

theorem postdivGetBody_eq (s : State) : postdivGetBody s =
    (postDivDecode s).2.setAll [(0, (postDivDecode s).1.1), (1, (postDivDecode s).1.2)] := rfl

/-- The state SAVE leaves before it reports: the bytes and the rate captured (45 R181). -/
def saved (s : State) : State :=
  ((captureRate (captureBytes s).2).2.setCache
    { (captureBytes s).1 with rate := BitVec.ofNat 64 (captureRate (captureBytes s).2).1 }).setCacheStatus .valid

theorem saveBody_eq (s : State) :
    saveBody s = (saved s).setAll [(0, (captureRate (captureBytes s).2).1)] := by
  unfold saveBody saved State.setAll
  simp only [List.foldl]

theorem saved_body (s : State) : ∃ evs, BodyStep s (saved s) evs :=
  let ⟨_, ha⟩ := captureBytes_body s
  let ⟨_, hb⟩ := captureRate_body (captureBytes s).2
  ⟨_, ((ha.trans hb).setCache _).setCacheStatus .valid⟩

/-- Every body ends in one of the ways of 60 R200. -/
theorem bodyOf_endsAs (i : Instr) (s : State) : EndsAs s (bodyOf i s) := by
  cases i with
  | multX100 => exact .of_body ⟨_, .refl s⟩ [(0, (multX100 s.arg0).1), (1, (multX100 s.arg0).2)] (by simp)
  | gcd => exact .of_body ⟨_, .refl s⟩ [(0, gcd s.arg0 s.arg1)] (by simp)
  | plan =>
    show EndsAs s (planBody s)
    unfold planBody
    split
    · exact .of_body ⟨_, .refl s⟩ [] (by simp)
    · rw [State.setPlan_eq]
      exact .of_body ⟨_, .refl s⟩ _ (by simp)
  | sscCompute =>
    show EndsAs s (if _ then _ else _)
    split
    · exact .refuses _
    · rw [State.setSsc_eq]
      exact .of_body ⟨_, .refl s⟩ _ (by simp)
  | roundRate =>
    exact .of_body ⟨_, .refl s⟩ [(0, clamp s.arg0 Config.minPllRateHz Config.maxPllRateHz)] (by simp)
  | setRate =>
    show EndsAs s (if _ then _ else _)
    split
    · exact .refuses _
    · exact .of_body (rateTransaction_body _ s) [] (by simp)
  | recalcRate => exact .of_body (recalcRate_body s) [(0, (recalcRate s).1)] (by simp)
  | prepare => exact .of_body (prepareBody_body s) [] (by simp)
  | unprepare => exact .of_body (unprepareBody_body s) [] (by simp)
  | enable => exact .of_body (enableBody_body s) [] (by simp)
  | isEnabled => exact .of_body (lockPoll_body s) [(0, if (lockPoll s).1 then 1 else 0)] (by simp)
  | postdivSet =>
    show EndsAs s (postdivSetBody s)
    unfold postdivSetBody
    split
    · exact .of_body (postdivSelect_body _ s) [] (by simp)
    · exact .of_body ⟨_, .refl s⟩ [] (by simp)
  | postdivGet =>
    obtain ⟨b, c, lg, h, _⟩ := postDivDecode_body s
    show EndsAs s (.completes .ok (postdivGetBody s))
    rw [postdivGetBody_eq]
    exact .of_body ⟨_, h⟩ _ (by simp)
  | gpdivSet =>
    show EndsAs s (gpdivSetBody s)
    unfold gpdivSetBody
    split
    · exact .of_body ⟨_, .refl s⟩ [] (by simp)
    · obtain ⟨evs, h, _⟩ := s.fieldWrite_trace (s.cfg.fd .gpdiv) s.arg0
      exact .of_body ⟨evs, h⟩ [] (by simp)
  | gpdivGet => exact .of_body ⟨_, s.fieldRead_body _⟩ [(0, (s.fieldRead (s.cfg.fd .gpdiv)).1)] (by simp)
  | pixdivRoundRate =>
    exact .of_body ⟨_, .refl s⟩
      [(0, pixRate s.arg1 (pixRatio s.arg0 s.arg1)), (1, pixRatio s.arg0 s.arg1)] (by simp)
  | pixdivSetRate =>
    obtain ⟨evs, h, _⟩ := s.fieldWrite_trace (s.cfg.fd .pixdiv) (pixRatio s.arg0 s.arg1 - 1)
    show EndsAs s (.completes .ok (pixdivSetBody s))
    rw [pixdivSetBody_eq]
    exact .of_body ⟨evs, h⟩ _ (by simp)
  | pixdivRecalcRate =>
    exact .of_body ⟨_, s.fieldRead_body _⟩
      [(0, pixRate s.arg1 ((s.fieldRead (s.cfg.fd .pixdiv)).1 + 1))] (by simp)
  | save =>
    show EndsAs s (.completes .ok (saveBody s))
    rw [saveBody_eq]
    exact .of_body (saved_body s) _ (by simp)
  | restore =>
    show EndsAs s (restoreBody s)
    unfold restoreBody
    split
    · exact .faults _
    · split
      · exact .refuses _
      · exact .of_body (restoreRun_body _ s) [] (by simp)

/-- Everything `exec` can answer (60 R200, R206). -/
theorem exec_cases {i : Instr} {s t : State} (h : exec i s = .next t) : s.stuck? = none ∧
    ((s.constructed = false ∧ t = finishCommand (opcode i) .deviceAbsent s) ∨
      (s.constructed = true ∧
        ((∃ e v evs rs, BodyStep s v evs ∧ (rs.map Prod.fst).Nodup ∧
            t = finishCommand (opcode i) e (v.setAll rs)) ∨
          (∃ r, t = s.raiseFault r) ∨ (∃ r, t = s.markRefused r)))) := by
  rw [exec_eq] at h
  obtain ⟨hs, h⟩ := runCommand_cases h
  refine ⟨hs, h.imp id ?_⟩
  rintro ⟨hc, h⟩
  refine ⟨hc, ?_⟩
  rcases h with ⟨e, u, hu, rfl⟩ | ⟨r, _, rfl⟩ | ⟨r, _, rfl⟩
  · have := bodyOf_endsAs i s
    rw [hu] at this
    cases this with
    | completes e v evs rs hv nd => exact .inl ⟨e, v, evs, rs, hv, nd, rfl⟩
  · exact .inr (.inl ⟨r, rfl⟩)
  · exact .inr (.inr ⟨r, rfl⟩)

/-- No command answers a fault or a refusal unless the block already stands in one (10 R34). -/
theorem exec_next {i : Instr} {s : State} (hf : s.fault = none) (hr : s.refused = none) : ∃ t, exec i s = .next t := by
  rw [exec_eq]
  unfold runCommand
  rw [State.stuck?_eq_none.mpr ⟨hf, hr⟩]
  dsimp only
  split
  · split <;> exact ⟨_, rfl⟩
  · exact ⟨_, rfl⟩

/-- A ready block completes a command whose body completes, and the completion is the body's step, its results, its
events and its error code (60 R200.1). -/
theorem exec_completes {i : Instr} {s v : State} {e : ErrCode} {evs : List Event} {rs : List (Fin 6 × Nat)}
    (h : Ready s) (hb : bodyOf i s = .completes e (v.setAll rs)) (hv : BodyStep s v evs)
    (nd : (rs.map Prod.fst).Nodup) :
    exec i s = .next (finishCommand (opcode i) e (v.setAll rs)) ∧
    Ends (opcode i) e rs evs s (finishCommand (opcode i) e (v.setAll rs)) := by
  refine ⟨?_, hv.ends nd⟩
  rw [exec_eq]
  exact runCommand_completes h.1 h.2.1 h.2.2 hb

/-- Results and completion leave the runtime state, the cache, the bank and the environment as the body left them. -/
theorem finished_untouched (op : Byte) (e : ErrCode) (rs : List (Fin 6 × Nat)) (v : State) :
    Untouched v (finishCommand op e (v.setAll rs)) := by
  rw [v.setAll_eq rs]
  exact ⟨⟨rfl, rfl, rfl, rfl, rfl⟩, fun _ => rfl, rfl⟩

theorem finished_field (op : Byte) (e : ErrCode) (rs : List (Fin 6 × Nat)) (v : State) (f : FieldDesc) :
    (finishCommand op e (v.setAll rs)).field f = v.field f := by
  rw [v.setAll_eq rs]
  rfl

theorem finished_stored (op : Byte) (e : ErrCode) (rs : List (Fin 6 × Nat)) (v : State) (off : Nat) :
    (finishCommand op e (v.setAll rs)).stored off = v.stored off :=
  (finished_untouched op e rs v).2.1 off

/-- A bank step leaves the runtime state and the cache. -/
theorem BankStep.sameRuntime {s t : State} (h : BankStep s t) : SameRuntime s t :=
  ⟨h.poweredOn, h.locked, h.currentVcoRate, h.cache, h.cacheStatus⟩

theorem SameRuntime.trans {s t u : State} (h : SameRuntime s t) (h' : SameRuntime t u) : SameRuntime s u :=
  ⟨h'.1.trans h.1, h'.2.1.trans h.2.1, h'.2.2.1.trans h.2.2.1, h'.2.2.2.1.trans h.2.2.2.1,
    h'.2.2.2.2.trans h.2.2.2.2⟩

end Sys2Proof.Machine
end

