-- ==== Sys2Proof/Laws/Independence.lean ====
section
/-! SUPPORT. What the bank operations do not look at: the interfaces, and the environment's answers for RESTORE. -/

namespace Sys2Proof.Machine

/-! ### The interfaces -/

/-- The state with other interfaces. -/
def State.withIfaces (i : List (Nat × Iface)) (s : State) : State := { s with ifaces := i }

section
variable (i : List (Nat × Iface)) (s : State)

theorem State.withIfaces_cfg : (s.withIfaces i).cfg = s.cfg := rfl
theorem State.withIfaces_env : (s.withIfaces i).env = s.env := rfl
theorem State.withIfaces_stored (off : Nat) : (s.withIfaces i).stored off = s.stored off := rfl

theorem State.drawLock_withIfaces :
    (s.withIfaces i).drawLock = (s.drawLock.1, s.drawLock.2.withIfaces i) := by
  unfold State.drawLock
  rw [State.withIfaces_env]
  split <;> rfl

theorem State.drawRunning_withIfaces :
    (s.withIfaces i).drawRunning = (s.drawRunning.1, s.drawRunning.2.withIfaces i) := by
  unfold State.drawRunning
  rw [State.withIfaces_env]
  split <;> rfl

theorem overlayLock_withIfaces (off : Nat) (b : Byte) :
    overlayLock off (b, s.withIfaces i) =
      ((overlayLock off (b, s)).1, (overlayLock off (b, s)).2.withIfaces i) := by
  simp only [overlayLock, State.withIfaces_cfg, State.drawLock_withIfaces]
  split <;> rfl

theorem overlayRunning_withIfaces (off : Nat) (b : Byte) :
    overlayRunning off (b, s.withIfaces i) =
      ((overlayRunning off (b, s)).1, (overlayRunning off (b, s)).2.withIfaces i) := by
  simp only [overlayRunning, State.withIfaces_cfg, State.drawRunning_withIfaces]
  split <;> rfl

theorem State.memRead_withIfaces (off : Nat) :
    (s.withIfaces i).memRead off = ((s.memRead off).1, (s.memRead off).2.withIfaces i) := by
  unfold State.memRead
  rw [State.withIfaces_stored, overlayLock_withIfaces, overlayRunning_withIfaces]
  rfl

theorem State.regRead_withIfaces (r : RegName) :
    (s.withIfaces i).regRead r = ((s.regRead r).1, (s.regRead r).2.withIfaces i) :=
  s.memRead_withIfaces i _

theorem State.fieldRead_withIfaces (f : FieldDesc) :
    (s.withIfaces i).fieldRead f = ((s.fieldRead f).1, (s.fieldRead f).2.withIfaces i) := by
  unfold State.fieldRead
  rw [State.regRead_withIfaces]

theorem State.fieldWrite_withIfaces (f : FieldDesc) (v : Nat) :
    (s.withIfaces i).fieldWrite f v = (s.fieldWrite f v).withIfaces i := by
  unfold State.fieldWrite
  rw [State.regRead_withIfaces]
  split <;> rfl

theorem State.fieldWrite2_withIfaces (f : FieldDesc) (v : Nat) (g : FieldDesc) (w : Nat) :
    (s.withIfaces i).fieldWrite2 f v g w = (s.fieldWrite2 f v g w).withIfaces i := by
  unfold State.fieldWrite2
  rw [State.regRead_withIfaces, State.fieldWrite_withIfaces, State.fieldWrite_withIfaces]
  split <;> rfl

theorem RegOp.run_withIfaces (o : RegOp) : o.run (s.withIfaces i) = (o.run s).withIfaces i := by
  cases o with
  | field f v => exact s.fieldWrite_withIfaces i f v
  | field2 f v g w => exact s.fieldWrite2_withIfaces i f v g w
  | byte => rfl
  | delay => rfl
  | barrier => rfl

theorem runOps_withIfaces (l : List RegOp) : runOps l (s.withIfaces i) = (runOps l s).withIfaces i := by
  induction l generalizing s with
  | nil => rfl
  | cons o rest ih =>
    show runOps rest (o.run (s.withIfaces i)) = _
    rw [RegOp.run_withIfaces, ih]
    rfl

theorem postDivDecode_withIfaces :
    postDivDecode (s.withIfaces i) = ((postDivDecode s).1, (postDivDecode s).2.withIfaces i) := by
  have hl : ∀ (rc bc : Nat) (u : State),
      (u.withIfaces i).logIfUnmapped rc bc = (u.logIfUnmapped rc bc).withIfaces i := by
    intro rc bc u
    unfold State.logIfUnmapped
    rw [State.withIfaces_cfg]
    split <;> rfl
  simp only [postDivDecode, State.withIfaces_cfg, State.fieldRead_withIfaces, hl]

/-- The rate transaction does not look at the interfaces: its rate is an argument (43 R155, 45 R182). -/
theorem rateTransaction_withIfaces (t : Nat) :
    rateTransaction t (s.withIfaces i) = (rateTransaction t s).withIfaces i := by
  have h := postDivDecode_withIfaces i { s with postdivLock := .held s.turn }
  have hu : underPostdivLock postDivDecode (s.withIfaces i) =
      ((underPostdivLock postDivDecode s).1, (underPostdivLock postDivDecode s).2.withIfaces i) := by
    unfold underPostdivLock
    rw [show ({ s.withIfaces i with postdivLock := .held (s.withIfaces i).turn } : State) =
      State.withIfaces i { s with postdivLock := .held s.turn } from rfl, h]
    rfl
  rw [rateTransaction_eq, rateTransaction_eq, hu, State.withIfaces_cfg, runOps_withIfaces]
  rfl

end

/-! ### The answers for RESTORE -/

section
variable (s : State)

theorem State.memRead_restore (off : Nat) : (s.memRead off).2.env.restore = s.env.restore := by
  have hl : (overlayLock off (s.stored off, s)).2.env.restore = s.env.restore := by
    unfold overlayLock State.drawLock
    split
    · split <;> rfl
    · rfl
  have hr : ∀ r : Byte × State, (overlayRunning off r).2.env.restore = r.2.env.restore := by
    intro r
    unfold overlayRunning State.drawRunning
    split
    · split <;> rfl
    · rfl
  exact (hr _).trans hl

theorem State.fieldWrite_restore (f : FieldDesc) (v : Nat) : (s.fieldWrite f v).env.restore = s.env.restore := by
  unfold State.fieldWrite
  split
  · rfl
  · exact s.memRead_restore _

theorem RegOp.run_restore (o : RegOp) : (o.run s).env.restore = s.env.restore := by
  cases o with
  | field f v => exact s.fieldWrite_restore f v
  | field2 f v g w =>
    show (s.fieldWrite2 f v g w).env.restore = _
    unfold State.fieldWrite2
    split
    · exact s.memRead_restore _
    · rw [State.fieldWrite_restore, State.fieldWrite_restore]
  | byte => rfl
  | delay => rfl
  | barrier => rfl

theorem runOps_restore (l : List RegOp) : (runOps l s).env.restore = s.env.restore := by
  induction l generalizing s with
  | nil => rfl
  | cons o rest ih => exact (ih _).trans (o.run_restore s)

/-- The rate transaction takes no answer meant for RESTORE. -/
theorem rateTransaction_restore (t : Nat) : (rateTransaction t s).env.restore = s.env.restore := by
  have hl : ∀ (rc bc : Nat) (u : State), (u.logIfUnmapped rc bc).env.restore = u.env.restore := by
    intro rc bc u
    unfold State.logIfUnmapped
    split <;> rfl
  rw [rateTransaction_eq]
  refine (runOps_restore _ _).trans ?_
  refine (hl _ _ _).trans ((State.memRead_restore _ _).trans (State.memRead_restore _ _))

end

end Sys2Proof.Machine
end

