-- ==== Sys2Proof/Laws/PerInstr.lean ====
section
/-! SUPPORT. One lemma per command about the shape of its word (30 R62). -/

namespace Sys2Proof.Laws

/-- The word of a command holds its opcode in bits 7:0 and zeros in bits 31:8, and the command is well formed. -/
def EncodeShape.Statement (i : Instr) : Prop :=
  opField (encode i) = opcode i ∧ rsvField (encode i) = 0 ∧ i.wellFormed = true

theorem EncodeShape.multX100 : EncodeShape.Statement .multX100 := ⟨by decide, by decide, rfl⟩
theorem EncodeShape.gcd : EncodeShape.Statement .gcd := ⟨by decide, by decide, rfl⟩
theorem EncodeShape.plan : EncodeShape.Statement .plan := ⟨by decide, by decide, rfl⟩
theorem EncodeShape.sscCompute : EncodeShape.Statement .sscCompute := ⟨by decide, by decide, rfl⟩
theorem EncodeShape.roundRate : EncodeShape.Statement .roundRate := ⟨by decide, by decide, rfl⟩
theorem EncodeShape.setRate : EncodeShape.Statement .setRate := ⟨by decide, by decide, rfl⟩
theorem EncodeShape.recalcRate : EncodeShape.Statement .recalcRate := ⟨by decide, by decide, rfl⟩
theorem EncodeShape.prepare : EncodeShape.Statement .prepare := ⟨by decide, by decide, rfl⟩
theorem EncodeShape.unprepare : EncodeShape.Statement .unprepare := ⟨by decide, by decide, rfl⟩
theorem EncodeShape.enable : EncodeShape.Statement .enable := ⟨by decide, by decide, rfl⟩
theorem EncodeShape.isEnabled : EncodeShape.Statement .isEnabled := ⟨by decide, by decide, rfl⟩
theorem EncodeShape.postdivSet : EncodeShape.Statement .postdivSet := ⟨by decide, by decide, rfl⟩
theorem EncodeShape.postdivGet : EncodeShape.Statement .postdivGet := ⟨by decide, by decide, rfl⟩
theorem EncodeShape.gpdivSet : EncodeShape.Statement .gpdivSet := ⟨by decide, by decide, rfl⟩
theorem EncodeShape.gpdivGet : EncodeShape.Statement .gpdivGet := ⟨by decide, by decide, rfl⟩
theorem EncodeShape.pixdivRoundRate : EncodeShape.Statement .pixdivRoundRate := ⟨by decide, by decide, rfl⟩
theorem EncodeShape.pixdivSetRate : EncodeShape.Statement .pixdivSetRate := ⟨by decide, by decide, rfl⟩
theorem EncodeShape.pixdivRecalcRate : EncodeShape.Statement .pixdivRecalcRate := ⟨by decide, by decide, rfl⟩
theorem EncodeShape.save : EncodeShape.Statement .save := ⟨by decide, by decide, rfl⟩
theorem EncodeShape.restore : EncodeShape.Statement .restore := ⟨by decide, by decide, rfl⟩

end Sys2Proof.Laws
end

