-- ==== Sys2Proof/Laws/Step.lean ====
section
/-! SUPPORT. Everything `step` can do: the moves it may make, and what a host's move may be. -/

namespace Sys2Proof.Machine

/-- The state with its first turn used up. -/
def State.withSchedule (rest : List Turn) (s : State) : State := { s with schedule := rest }

/-- The state in which agent `a`'s command finishes. -/
def State.withTurn (a : Nat) (s : State) : State := { s with turn := a }

/-- A state that a step can leave stands unmarked (10 R34). -/
theorem step_unmarked {s t : State} (h : step s = .next t) : s.fault = none ∧ s.refused = none := by
  unfold step at h
  split at h
  · rename_i o ho
    unfold State.stuck? at ho
    subst h
    split at ho
    · cases ho
    · split at ho <;> cases ho
  · exact State.stuck?_eq_none.mp ‹_›

/-- An unmarked state makes the move its schedule names. -/
theorem step_eq {s : State} (hf : s.fault = none) (hr : s.refused = none) :
    step s = match nextMove s with
      | .run i t => exec i t
      | .quiet t => .next t := by
  unfold step
  rw [State.stuck?_eq_none.mpr ⟨hf, hr⟩] <;> rfl

/-- The moves of a step (20 R57, 45 R185, 70 R221). -/
inductive Moves (s t : State) : Prop where
  | idle (h : s.schedule = []) (ht : t = s)
  | skip (u : Turn) (rest : List Turn) (h : s.schedule = u :: rest) (ht : t = s.withSchedule rest)
  | finish (a : Nat) (w : Word) (i : Instr) (rest : List Turn) (h : s.schedule = .agent a :: rest)
      (hst : s.started = true) (hw : Sparse.find? s.inProgress a = some w) (hi : decode w = .ok i)
      (ht : exec i ((s.withSchedule rest).withTurn a) = .next t)
  | illegal (a : Nat) (w : Word) (rest : List Turn) (h : s.schedule = .agent a :: rest)
      (hst : s.started = true) (hw : Sparse.find? s.inProgress a = some w) (hi : ∀ i, decode w ≠ .ok i)
      (ht : t = finishIllegal w ((s.withSchedule rest).withTurn a))
  | host (a : Nat) (rest : List Turn) (h : s.schedule = .agent a :: rest) (hst : s.started = true)
      (hw : Sparse.find? s.inProgress a = none) (ht : t = hostMove a (s.withSchedule rest))
  | collapse (rest : List Turn) (h : s.schedule = .powerCollapse :: rest) (ht : t = powerCollapse (s.withSchedule rest))
  | construct (rest : List Turn) (h : s.schedule = .construct :: rest) (ht : t = construct (s.withSchedule rest))

/-- Every step is one of the moves. -/
theorem step_moves {s t : State} (h : step s = .next t) : Moves s t := by
  obtain ⟨hf, hr⟩ := step_unmarked h
  rw [step_eq hf hr] at h
  unfold nextMove at h
  cases hs : s.schedule with
  | nil =>
    simp only [hs, Host.Outcome.next.injEq] at h
    exact .idle hs h.symm
  | cons u rest =>
    cases u with
    | agent a =>
      simp only [hs] at h
      split at h
      · rename_i i r he
        split at he
        · rename_i hst
          rw [Bool.and_eq_true] at hst
          unfold agentMove at he
          cases hw : Sparse.find? s.inProgress a with
          | none => simp [hw] at he
          | some w =>
            simp only [hw] at he
            cases hd : decode w with
            | ok j =>
              simp only [hd, Move.run.injEq] at he
              obtain ⟨rfl, rfl⟩ := he
              exact .finish a w j rest hs hst.1 hw hd h
            | error e => simp [hd] at he
        · cases he
      · rename_i r he
        obtain rfl : r = t := by simpa using h
        split at he
        · rename_i hst
          rw [Bool.and_eq_true] at hst
          unfold agentMove at he
          cases hw : Sparse.find? s.inProgress a with
          | none =>
            simp only [hw, Move.quiet.injEq] at he
            exact .host a rest hs hst.1 hw he.symm
          | some w =>
            simp only [hw] at he
            cases hd : decode w with
            | ok j => simp [hd] at he
            | error e =>
              simp only [hd, Move.quiet.injEq] at he
              exact .illegal a w rest hs hst.1 hw (by simp [hd]) he.symm
        · simp only [Move.quiet.injEq] at he
          exact .skip _ rest hs he.symm
    | powerCollapse =>
      simp only [hs, Host.Outcome.next.injEq] at h
      exact .collapse rest hs h.symm
    | construct =>
      simp only [hs, Host.Outcome.next.injEq] at h
      exact .construct rest hs h.symm

/-- A change of agent `a`'s interface and host side alone, both lists staying canonical. -/
structure OwnChange (a : Nat) (s : State) (ifs : List (Nat × Iface)) (hs : List (Nat × HostSide)) : Prop where
  ifacesWf : Sparse.wf (fun _ => Iface.reset) s.ifaces = true → Sparse.wf (fun _ => Iface.reset) ifs = true
  hostsWf : Sparse.wf (fun _ => HostSide.idle) s.hosts = true → Sparse.wf (fun _ => HostSide.idle) hs = true
  ifacesOther : ∀ b, b ≠ a → Sparse.get (fun _ => Iface.reset) ifs b = s.iface b
  hostsOther : ∀ b, b ≠ a → Sparse.get (fun _ => HostSide.idle) hs b = s.host b

theorem OwnChange.refl (a : Nat) (s : State) : OwnChange a s s.ifaces s.hosts :=
  ⟨id, id, fun _ _ => rfl, fun _ _ => rfl⟩

theorem OwnChange.setHost {a : Nat} {s : State} {ifs : List (Nat × Iface)} {hs : List (Nat × HostSide)}
    (h : OwnChange a s ifs hs) (x : HostSide) :
    OwnChange a s ifs (Sparse.set (fun _ => HostSide.idle) a x hs) :=
  ⟨h.ifacesWf, fun w => Sparse.wf_set _ (h.hostsWf w), h.ifacesOther,
    fun b hb => (Sparse.get_set_other _ hb x hs).trans (h.hostsOther b hb)⟩

theorem OwnChange.setIface {a : Nat} {s : State} {ifs : List (Nat × Iface)} {hs : List (Nat × HostSide)}
    (h : OwnChange a s ifs hs) (x : Iface) :
    OwnChange a s (Sparse.set (fun _ => Iface.reset) a x ifs) hs :=
  ⟨fun w => Sparse.wf_set _ (h.ifacesWf w), h.hostsWf,
    fun b hb => (Sparse.get_set_other _ hb x ifs).trans (h.ifacesOther b hb), h.hostsOther⟩

/-- What a host's move may be: a hold, a start, a change of its own interface and host side, or a fault mark. -/
inductive HostMoves (a : Nat) (s t : State) : Prop where
  | held (ht : t = s)
  | started (w : Word) (p : List HostOp) (hm : mustHold a w s = false) (ht : t = startCommand a w (s.setProgram a p))
  | own (ifs : List (Nat × Iface)) (hs : List (Nat × HostSide)) (h : OwnChange a s ifs hs)
      (ht : t = { s with ifaces := ifs, hosts := hs })
  | fault (ifs : List (Nat × Iface)) (hs : List (Nat × HostSide)) (h : OwnChange a s ifs hs) (r : Fault)
      (ht : t = { s with ifaces := ifs, hosts := hs, fault := some r })

theorem writeCmd_moves (a : Nat) (w : Word) (rest : List HostOp) (s : State) :
    HostMoves a s (writeCmd a w rest s) := by
  unfold writeCmd
  split
  · exact .held rfl
  · rename_i h
    exact .started w rest (by simpa using h) rfl

/-- Every move of a host is one of these (70 R231). -/
theorem hostMove_moves (a : Nat) (s : State) : HostMoves a s (hostMove a s) := by
  have h0 := OwnChange.refl a s
  unfold hostMove
  split
  · exact .held rfl
  · rename_i op rest _
    cases op with
    | writeArg k v => exact .own _ _ ((h0.setHost _).setIface _) rfl
    | copyRes n k =>
      simp only [hostOp, readResult]
      split
      · exact .own _ _ (((h0.setHost _).setHost _).setIface _) rfl
      · exact .fault _ _ (h0.setHost _) _ rfl
    | writeCmd w => exact writeCmd_moves a w rest s
    | writeCmdIfOk w =>
      simp only [hostOp]
      split
      · exact writeCmd_moves a w rest s
      · exact .own _ _ (h0.setHost _) rfl
    | readRes n =>
      simp only [hostOp, readResult]
      split
      · exact .own _ _ ((h0.setHost _).setHost _) rfl
      · exact .fault _ _ (h0.setHost _) _ rfl
    | readErr => exact .own _ _ ((h0.setHost _).setHost _) rfl
    | readCmd => exact .own _ _ ((h0.setHost _).setHost _) rfl

/-- Construction: nothing once it has ended; else a refusal, a success over the environment after its draw, or a failure
(70 R221, 60 R203). -/
theorem construct_cases (s : State) :
    (s.started = true ∧ construct s = s) ∨
    (s.started = false ∧ (s.cfg.wellFormed = false ∧ construct s = s.markRefused .illFormedConfiguration ∨
      ∃ e : Env, construct s = constructedFrom { s with env := e } ∨
        construct s = State.failConstruction .allocationFailure { s with env := e } ∨
        construct s = State.failConstruction .deviceAbsent { s with env := e })) := by
  unfold construct
  cases hs : s.started with
  | true => exact .inl ⟨rfl, by simp⟩
  | false =>
    refine .inr ⟨rfl, ?_⟩
    cases hw : s.cfg.wellFormed with
    | false => exact .inl ⟨rfl, by simp⟩
    | true =>
      obtain ⟨e, he⟩ := s.drawConstruct_env
      refine .inr ⟨e, ?_⟩
      rw [he]
      cases s.drawConstruct.1 <;> simp [constructAs]

/-- No command ends or undoes construction (70 R221, R222). -/
theorem exec_started {i : Instr} {s t : State} (h : exec i s = .next t) :
    t.constructed = s.constructed ∧ t.constructFailed = s.constructFailed := by
  obtain ⟨_, ⟨_, rfl⟩ | ⟨_, ⟨e, v, evs, rs, hv, nd, rfl⟩ | ⟨r, rfl⟩ | ⟨r, rfl⟩⟩⟩ := exec_cases h
  · exact ⟨rfl, rfl⟩
  · exact (hv.ends (op := opcode i) (e := e) nd).1.2.2.1
  · exact ⟨rfl, rfl⟩
  · exact ⟨rfl, rfl⟩

/-- A start either sets the fault mark or enters the command (20 R57, R58). -/
theorem startCommand_cases (a : Nat) (w : Word) (s : State) :
    (overlapFault a w s = true ∧ startCommand a w s = s.raiseFault .unserialized) ∨
    (overlapFault a w s = false ∧ startCommand a w s =
      takeLock a (classOfWord w) (((s.setIface a (s.iface a).cleared).record (.cmdStart a (opField w))).enter a w)) := by
  unfold startCommand
  cases h : overlapFault a w s with
  | true => exact .inl ⟨rfl, by simp⟩
  | false => exact .inr ⟨rfl, by simp⟩

/-- A host's move ends no construction and undoes none (70 R222). -/
theorem hostMove_started (a : Nat) (s : State) :
    (hostMove a s).constructed = s.constructed ∧ (hostMove a s).constructFailed = s.constructFailed := by
  cases hostMove_moves a s with
  | held ht => rw [ht]; exact ⟨rfl, rfl⟩
  | started w p hm ht =>
    rw [ht]
    rcases startCommand_cases a w (s.setProgram a p) with ⟨_, e⟩ | ⟨_, e⟩
    · rw [e]; exact ⟨rfl, rfl⟩
    · rw [e]; unfold takeLock; split <;> exact ⟨rfl, rfl⟩
  | own ifs hs h ht => rw [ht]; exact ⟨rfl, rfl⟩
  | fault ifs hs h r ht => rw [ht]; exact ⟨rfl, rfl⟩

/-- A power collapse keeps the in-progress set and construction (45 R185). -/
theorem powerCollapse_keeps (s : State) : (powerCollapse s).inProgress = s.inProgress ∧
    (powerCollapse s).constructed = s.constructed ∧ (powerCollapse s).constructFailed = s.constructFailed := by
  unfold powerCollapse
  split
  · obtain ⟨e, hd⟩ := s.drawImage_env
    rw [hd]; exact ⟨rfl, rfl, rfl⟩
  · exact ⟨rfl, rfl, rfl⟩

end Sys2Proof.Machine
end

