-- ==== Sys2Proof/Tests/Slice0.lean ====
section
/-! SUPPORT. Tests: command words written out from 30 R62 and R64, the configuration checks, one step of each command
on a small state with the values of 95, and a witness of the hypotheses of every obligation that has some. -/

namespace Sys2Proof.Tests

open Sys2Proof Sys2Proof.Machine

set_option Elab.async false

/-! ### Words, bit by bit: reserved 31:8, opcode 7:0 (30 R62, R64; 95 section 3) -/

theorem test_decode_multX100 : decode 0b000000000000000000000000_00000001#32 = .ok .multX100 := by decide
theorem test_decode_gcd : decode 0b000000000000000000000000_00000010#32 = .ok .gcd := by decide
theorem test_decode_plan : decode 0b000000000000000000000000_00000011#32 = .ok .plan := by decide
theorem test_decode_sscCompute : decode 0b000000000000000000000000_00000100#32 = .ok .sscCompute := by decide
theorem test_decode_roundRate : decode 0b000000000000000000000000_00010000#32 = .ok .roundRate := by decide
theorem test_decode_setRate : decode 0b000000000000000000000000_00010001#32 = .ok .setRate := by decide
theorem test_decode_recalcRate : decode 0b000000000000000000000000_00010010#32 = .ok .recalcRate := by decide
theorem test_decode_prepare : decode 0b000000000000000000000000_00100000#32 = .ok .prepare := by decide
theorem test_decode_unprepare : decode 0b000000000000000000000000_00100001#32 = .ok .unprepare := by decide
theorem test_decode_enable : decode 0b000000000000000000000000_00100010#32 = .ok .enable := by decide
theorem test_decode_isEnabled : decode 0b000000000000000000000000_00100011#32 = .ok .isEnabled := by decide
theorem test_decode_postdivSet : decode 0b000000000000000000000000_00110000#32 = .ok .postdivSet := by decide
theorem test_decode_postdivGet : decode 0b000000000000000000000000_00110001#32 = .ok .postdivGet := by decide
theorem test_decode_gpdivSet : decode 0b000000000000000000000000_00110010#32 = .ok .gpdivSet := by decide
theorem test_decode_gpdivGet : decode 0b000000000000000000000000_00110011#32 = .ok .gpdivGet := by decide
theorem test_decode_pixdivRoundRate :
    decode 0b000000000000000000000000_00110100#32 = .ok .pixdivRoundRate := by decide
theorem test_decode_pixdivSetRate : decode 0b000000000000000000000000_00110101#32 = .ok .pixdivSetRate := by decide
theorem test_decode_pixdivRecalcRate :
    decode 0b000000000000000000000000_00110110#32 = .ok .pixdivRecalcRate := by decide
theorem test_decode_save : decode 0b000000000000000000000000_01000000#32 = .ok .save := by decide
theorem test_decode_restore : decode 0b000000000000000000000000_01000001#32 = .ok .restore := by decide
/-- 95 section 2.9: op 0x11 under a nonzero reserved field, and PREPARE's opcode with bit 31 set. -/
theorem test_decode_reservedBits :
    decode 0b000000000000000000000001_00010001#32 = .error .reservedBits ∧
    decode 0b100000000000000000000000_00100000#32 = .error .reservedBits := by decide
/-- 95 section 2.9: the unused opcodes. -/
theorem test_decode_reservedOpcode :
    decode 0x00000000#32 = .error (.reservedOpcode 0x00) ∧ decode 0x00000005#32 = .error (.reservedOpcode 0x05) ∧
    decode 0x00000042#32 = .error (.reservedOpcode 0x42) ∧ decode 0x000000FF#32 = .error (.reservedOpcode 0xFF) := by
  decide
/-- The host's numbering of the table's word. -/
theorem test_decodeTableWord :
    decodeTableWord 32 0x41 = some .restore ∧ decodeTableWord 8 0x30 = some .postdivSet ∧
    decodeTableWord 32 0x111 = none := by decide

/-! ### The fixture -/

/-- The fixture configuration FX of 95 section 0: every value is invented for testing, none is the hardware's. -/
def fx : Params where
  offsets := #v[0x010, 0x014, 0x018, 0x01C, 0x020, 0x024, 0x028, 0x02C, 0x030, 0x034, 0x038, 0x03C, 0x040, 0x044,
    0x048, 0x04C, 0x050, 0x060, 0x064, 0x068, 0x06C, 0x070, 0x080, 0x084, 0x088, 0x08C, 0x100, 0x101, 0x102, 0x103,
    0x104, 0x105, 0x106, 0x107, 0x108, 0x109, 0x10A, 0x10B, 0x10C]
  lsbPllEn := 0
  lsbSlew := 0
  lsbLoopLo := 0
  lsbLoopHi := 0
  lsbFsmOvr := 0
  lsbCpBias := 0
  subrangeReg := .vcoCntrl
  lsbSubrange := 0
  lsbGpdiv := 0
  lsbRunning := 7
  lsbOvrEn := 0
  lsbOvr := 1
  lsbClksel := 0
  widthClksel := 2
  lsbSscGate := 0
  lsbLock := 0
  hsfreqTable := [⟨80, 0x00⟩, ⟨1000, 0x10⟩, ⟨2000, 0x25⟩, ⟨2250, 0x36⟩, ⟨2400, 0x47⟩, ⟨2450, 0x57⟩, ⟨2500, 0x08⟩]
  oscCodeA := 0x0214
  oscCodeB := 0x0342
  srSlewVal := 1
  srInputDivOvr := [⟨0, 8, 0x01⟩]
  srInputLoopRatio := [⟨0, 8, 0x02⟩]
  srCpGain := [⟨0, 8, 0x03⟩]
  srGmp := [⟨0, 8, 0x04⟩]
  srAnaTest := [⟨0, 8, 0x05⟩]
  srPhaseErr := [⟨0, 4, 0x6⟩, ⟨4, 4, 0x7⟩]
  srLockFilter := [⟨0, 8, 0x08⟩]
  srProDlyRelock := [⟨0, 8, 0x09⟩]
  srLockDetMode := [⟨0, 8, 0x0A⟩]
  srDelayUs := #v[0, 0, 0, 0, 0, 0, 0, 0, 0, 0, 0, 0, 0, 0, 0, 0]
  sscByteMap := [⟨0, 0, 8, .peak, 0⟩, ⟨1, 0, 8, .peak, 8⟩, ⟨2, 0, 8, .peak, 16⟩,
    ⟨3, 0, 8, .step, 0⟩, ⟨4, 0, 8, .step, 8⟩, ⟨5, 0, 8, .step, 16⟩, ⟨6, 0, 8, .mint, 0⟩, ⟨7, 0, 8, .mint, 8⟩,
    ⟨8, 0, 8, .fracQuot, 0⟩, ⟨9, 0, 8, .fracQuot, 8⟩,
    ⟨10, 0, 8, .fracRem, 0⟩, ⟨11, 0, 8, .fracRem, 8⟩, ⟨12, 0, 8, .fracRem, 16⟩]
  sscEnabled := false
  postdivTable := #v[⟨0, 0⟩, ⟨3, 0⟩, ⟨1, 0⟩, ⟨2, 1⟩, ⟨3, 0⟩, ⟨1, 1⟩]
  subrangeTable := [⟨30, 1⟩, ⟨60, 2⟩, ⟨100, 3⟩, ⟨150, 2⟩, ⟨200, 1⟩, ⟨250, 3⟩, ⟨300, 2⟩, ⟨400, 3⟩, ⟨500, 1⟩, ⟨600, 2⟩,
    ⟨700, 1⟩, ⟨800, 3⟩, ⟨1000, 2⟩, ⟨1200, 1⟩, ⟨1500, 3⟩, ⟨1800, 2⟩]
  sysctrlV1 := 0x01
  sysctrlV2 := 0x03
  tPrepOvr := 10
  tPrepClksel := 10
  tUnpGate := 10
  tUnpClksel := 10
  tUnpOvr := 10
  hostAgents := 2

/-- FX+SSC. -/
def fxSsc : Params := { fx with sscEnabled := true }

/-- The construction state under FX, every bank byte 0 (95 section 4). -/
def fs : State := { State.reset with cfg := fx, image := [] }

/-- The same under FX+SSC. -/
def fsSsc : State := { fs with cfg := fxSsc }

/-- Operands in ARG0 and ARG1 of agent 1. -/
def withArgs (a b : Nat) (s : State) : State :=
  s.setIface 1 { s.iface 1 with arg0 := BitVec.ofNat 64 a, arg1 := BitVec.ofNat 64 b }

/-- The environment's answers: FD_RUNNING reads, FD_LOCK reads, restore draws. -/
def withDraws (run lock rest : List Bool) (s : State) : State :=
  { s with env := { s.env with running := run, lock := lock, restore := rest } }

/-- Fifteen misses. -/
def misses : List Bool := List.replicate 15 false

/-- A program for agent `a`. -/
def withProgram (a : Nat) (ops : List HostOp) (s : State) : State := s.setHost a ⟨ops, []⟩

/-- A schedule. -/
def scheduled (l : List Turn) (s : State) : State := { s with schedule := l }

/-- A command in progress at an agent, with no lock. -/
def inProgress (a : Nat) (w : Word) (s : State) : State := { s with inProgress := [(a, w)] }

/-- The state is a next state and meets a check. -/
def after (r : Result) (f : State → Bool) : Bool :=
  match r with
  | .next t => f t
  | _ => false

/-- RES[n] of agent 1 as a host reads it. -/
def rd (n : Fin 6) (t : State) : Option DWord := (t.iface 1).readRes n

/-- ERR of agent 1. -/
def err (t : State) : Byte := (t.iface 1).err

/-- What `after` says, as a statement. -/
theorem after_next {r : Result} {f : State → Bool} (h : after r f = true) : ∃ t, r = .next t ∧ f t = true := by
  cases r with
  | next t => exact ⟨t, rfl, h⟩
  | fault r => cases h
  | refused r => cases h

/-- A block with nothing in progress and free locks matches. -/
theorem locksMatch_idle {s : State} (h : s.inProgress = []) (hp : s.postdivLock = .free) (hg : s.gpdivLock = .free) :
    LocksMatch s := by
  simp [LocksMatch, h, hp, hg, Sparse.find?]

/-- A block with one command in progress that takes no lock matches. -/
theorem locksMatch_other {s : State} {b : Nat} {v : Word} (h : s.inProgress = [(b, v)])
    (hc : classOfWord v = .other ∨ classOfWord v = .pure) (hp : s.postdivLock = .free) (hg : s.gpdivLock = .free) :
    LocksMatch s := by
  rcases hc with hc | hc <;> simp [LocksMatch, h, hp, hg, Sparse.find?, hc]

/-- A block with one post-divider mux command in progress, its lock held, matches. -/
theorem locksMatch_postdiv {s : State} {b : Nat} {v : Word} (h : s.inProgress = [(b, v)])
    (hc : classOfWord v = .postdivMux) (hp : s.postdivLock = .held b) (hg : s.gpdivLock = .free) : LocksMatch s := by
  simp [LocksMatch, h, hp, hg, Sparse.find?, hc]

/-- A block with one GP-divider mux command in progress, its lock held, matches. -/
theorem locksMatch_gpdiv {s : State} {b : Nat} {v : Word} (h : s.inProgress = [(b, v)])
    (hc : classOfWord v = .gpdivMux) (hp : s.postdivLock = .free) (hg : s.gpdivLock = .held b) : LocksMatch s := by
  simp [LocksMatch, h, hp, hg, Sparse.find?, hc]

/-! ### The configuration checks (60 R203): FX passes, and each check refuses a broken FX -/

theorem test_fx_wellFormed : fx.wellFormed = true := by decide +kernel
theorem test_fxSsc_wellFormed : fxSsc.wellFormed = true := by decide +kernel
/-- 20 R49: an offset of 0x400 is outside the address space. -/
theorem test_wf_offset : (offsetsOfList (List.replicate 38 0 ++ [0x400])).isNone = true ∧
    (offsetsOfList (List.replicate 38 0 ++ [0x3FF])).isSome = true ∧
    (offsetsOfList (List.replicate 38 0)).isNone = true := by decide
theorem test_wf_fieldsInByte : ({ fx with lsbLoopLo := 3 } : Params).wellFormed = false ∧
    ({ fx with widthClksel := 0 } : Params).wellFormed = false ∧
    ({ fx with srGmp := [⟨1, 8, 0⟩] } : Params).wellFormed = false := by decide +kernel
theorem test_wf_namedApart : ({ fx with lsbSubrange := 3 } : Params).wellFormed = false ∧
    ({ fx with lsbOvr := 0 } : Params).wellFormed = false := by decide +kernel
theorem test_wf_listsApart :
    ({ fx with offsets := fx.offsets.set 10 0x018 } : Params).wellFormed = false ∧
    ({ fx with srPhaseErr := [⟨0, 4, 0x6⟩, ⟨3, 4, 0x7⟩] } : Params).wellFormed = false := by decide +kernel
theorem test_wf_hsfreq : ({ fx with hsfreqTable := [] } : Params).wellFormed = false ∧
    ({ fx with hsfreqTable := [⟨80, 0⟩, ⟨2250, 1⟩, ⟨2400, 0x46⟩, ⟨2450, 2⟩] } : Params).wellFormed = false ∧
    ({ fx with hsfreqTable := [⟨81, 0⟩, ⟨2250, 1⟩, ⟨2400, 0x47⟩, ⟨2450, 2⟩] } : Params).wellFormed = false ∧
    ({ fx with hsfreqTable := [⟨80, 0⟩, ⟨2400, 0x47⟩, ⟨2450, 2⟩] } : Params).wellFormed = false := by decide +kernel
theorem test_wf_subrange : ({ fx with subrangeTable := fx.subrangeTable.drop 1 } : Params).wellFormed = false ∧
    ({ fx with subrangeTable := ⟨30, 0⟩ :: fx.subrangeTable.drop 1 } : Params).wellFormed = false ∧
    ({ fx with subrangeTable := ⟨60, 1⟩ :: fx.subrangeTable.drop 1 } : Params).wellFormed = false := by decide +kernel
theorem test_wf_sscMap : ({ fx with sscByteMap := fx.sscByteMap.drop 1 } : Params).wellFormed = false ∧
    ({ fx with sscByteMap := ⟨0, 0, 8, .fracDen, 0⟩ :: fx.sscByteMap.drop 1 } : Params).wellFormed = false := by
  decide +kernel
theorem test_wf_postdiv :
    ({ fx with postdivTable := fx.postdivTable.set 1 ⟨2, 0⟩ } : Params).wellFormed = false ∧
    ({ fx with postdivTable := fx.postdivTable.set 4 ⟨3, 1⟩ } : Params).wellFormed = false := by decide +kernel
theorem test_wf_srLists : ({ fx with srCpGain := [] } : Params).wellFormed = false ∧
    ({ fx with srPhaseErr := [⟨0, 4, 0x6⟩] } : Params).wellFormed = false := by decide +kernel
theorem test_wf_delays : ({ fx with tUnpOvr := 0 } : Params).wellFormed = false ∧
    ({ fx with srDelayUs := fx.srDelayUs.set 3 (-1) } : Params).wellFormed = false := by decide +kernel
theorem test_wf_hostAgents : ({ fx with hostAgents := 0 } : Params).wellFormed = false := by decide +kernel

/-! ### One step of each command, with the values of 95 section 2 -/

/-- 95 section 2.1: the quarters' closed lower boundaries. -/
theorem test_multX100 :
    after (exec .multX100 (withArgs 4799999 0 fs)) (fun t => rd 0 t = some 0 ∧ rd 1 t = some 4799999) = true ∧
    after (exec .multX100 (withArgs 4800000 0 fs)) (fun t => rd 0 t = some 25 ∧ rd 1 t = some 0) = true ∧
    after (exec .multX100 (withArgs 1202400000 0 fs)) (fun t => rd 0 t = some 6250 ∧ rd 1 t = some 2400000) = true ∧
    after (exec .multX100 (withArgs 1204800000 0 fs)) (fun t => rd 0 t = some 6275 ∧ rd 1 t = some 0) = true ∧
    after (exec .multX100 (withArgs 1017600000 0 fs)) (fun t => rd 0 t = some 5300 ∧ rd 1 t = some 0) = true := by
  decide +kernel

/-- 95 section 2.2. -/
theorem test_gcd :
    after (exec .gcd (withArgs 1000000000 19200000 fs)) (fun t => rd 0 t = some 1600000) = true ∧
    after (exec .gcd (withArgs 19200000 1000000000 fs)) (fun t => rd 0 t = some 1600000) = true ∧
    after (exec .gcd (withArgs 0 19200000 fs)) (fun t => rd 0 t = some 19200000) = true ∧
    after (exec .gcd (withArgs 19200000 0 fs)) (fun t => rd 0 t = some 19200000) = true ∧
    after (exec .gcd (withArgs 0 0 fs)) (fun t => rd 0 t = some 0) = true := by decide +kernel

/-- 95 section 2.3: the post-divider index enters the lookups and not the ratio. -/
theorem test_plan :
    after (exec .plan (withArgs 1200000000 0 fs)) (fun t => (t.iface 1).res = #v[0x47, 0x342, 250, 0, 58, 3]) = true ∧
    after (exec .plan (withArgs 1200000000 1 fs)) (fun t => (t.iface 1).res = #v[0x10, 0x214, 250, 1, 58, 3]) = true ∧
    after (exec .plan (withArgs 0 0 fs)) (fun t => (t.iface 1).res = #v[0x00, 0x214, 0, 1, 0, 0]) = true := by
  decide +kernel

/-- 95 section 2.3: the FSM window and the OSC limits are closed above; index 6 is rejected. -/
theorem test_plan_edges :
    after (exec .plan (withArgs 1250000000 0 fs)) (fun t => (t.iface 1).res = #v[0x08, 0x342, 260, 0, 4, 4]) = true ∧
    after (exec .plan (withArgs 1250500000 0 fs)) (fun t => (t.iface 1).res = #v[0x08, 0x342, 261, 1, 5, 4]) = true ∧
    after (exec .plan (withArgs 1000000000 0 fs)) (fun t => (t.iface 1).res = #v[0x25, 0x214, 208, 0, 16, 3]) = true ∧
    after (exec .plan (withArgs 1500000000 0 fs)) (fun t => (t.iface 1).res = #v[0x08, 0x342, 313, 1, 57, 4]) = true ∧
    after (exec .plan (withArgs 1000000000 6 fs)) (fun t => err t = 2 ∧ rd 0 t = none ∧ t.history.length = 1) = true := by
  decide +kernel

/-- 95 section 2.4: the source's worked rate (with the gcd corrected), and a rate coprime to the reference clock. -/
theorem test_sscCompute :
    after (exec .sscCompute (withArgs 1000000000 0 fs))
      (fun t => (t.iface 1).res = #v[34078, 57251, 176, 12, 10922, 8]) = true ∧
    after (exec .sscCompute (withArgs 1000000001 0 fs))
      (fun t => (t.iface 1).res = #v[34078, 57251, 176, 19200000, 10922, 12931072]) = true := by decide +kernel

/-- 95 section 2.4: the integer multiplier wraps below 153,600,000; the domain ends at 5,404,319,539,200,000. -/
theorem test_sscCompute_edges :
    after (exec .sscCompute (withArgs 153599999 0 fs)) (fun t => rd 2 t = some (BitVec.ofNat 64 (2 ^ 64 - 1))) = true ∧
    after (exec .sscCompute (withArgs 153600000 0 fs)) (fun t => rd 2 t = some 0) = true ∧
    after (exec .sscCompute (withArgs 0 0 fs)) (fun t => rd 2 t = some (BitVec.ofNat 64 (2 ^ 64 - 32)) ∧
      rd 3 t = some 1) = true ∧
    after (exec .sscCompute (withArgs 5404319539199999 0 fs)) (fun t => t.refused = none) = true ∧
    after (exec .sscCompute (withArgs 5404319539200000 0 fs))
      (fun t => t.refused = some .sscOutOfExactDomain ∧ t.history = []) = true := by decide +kernel

/-- 95 section 2.5. -/
theorem test_roundRate :
    after (exec .roundRate (withArgs 999999999 0 fs)) (fun t => rd 0 t = some 1000000000) = true ∧
    after (exec .roundRate (withArgs 1234567890 0 fs)) (fun t => rd 0 t = some 1234567890) = true ∧
    after (exec .roundRate (withArgs (2 ^ 64 - 1) 0 fs)) (fun t => rd 0 t = some 2000000000) = true := by
  decide +kernel

/-- 95 P1: the bank after SET_RATE 1.2 GHz over a zero bank, and its 27 events with CmdEnd. -/
theorem test_setRate : after (exec .setRate (withArgs 1200000000 0 fs)) (fun t =>
    t.bank = [(0x10, 1), (0x14, 1), (0x18, 0x47), (0x1C, 0x42), (0x20, 3), (0x24, 1), (0x28, 0x3A), (0x2C, 3),
      (0x30, 2), (0x34, 3), (0x38, 4), (0x3C, 5), (0x44, 0x76), (0x48, 8), (0x4C, 9), (0x50, 0xA)] ∧
    t.history.length = 28 ∧ t.currentVcoRate = 1200000000 ∧ t.locked = false) = true := by decide +kernel

/-- 95 P5: the SSC block of SET_RATE 1 GHz under FX+SSC, 40 events with CmdEnd after them. -/
theorem test_setRate_ssc : after (exec .setRate (withArgs 1000000000 0 fsSsc)) (fun t =>
    t.bank.filter (fun e => 0x100 ≤ e.1) =
      [(0x100, 0x1E), (0x101, 0x85), (0x103, 0xA3), (0x104, 0xDF), (0x106, 0xB0), (0x108, 0xAA), (0x109, 0x2A),
        (0x10A, 0x08)] ∧
    t.history.length = 41) = true := by decide +kernel

/-- 95 section 2.5: the cheap path, and the read-back with its two reads, low field first. -/
theorem test_recalcRate :
    after (exec .recalcRate { fs with currentVcoRate := 1000000000 })
      (fun t => rd 0 t = some 1000000000 ∧ t.history.length = 1) = true ∧
    after (exec .recalcRate { fs with bank := [(0x28, 16), (0x2C, 3)] })
      (fun t => rd 0 t = some 998400000 ∧
        t.history = [.read 0x28 16, .read 0x2C 3, .cmdEnd 1 0x12 .ok]) = true ∧
    after (exec .recalcRate { fs with bank := [(0x28, 63), (0x2C, 63)] })
      (fun t => rd 0 t = some 19656000000) = true := by decide +kernel

/-- 95 section 2.7: the cold path; and a no-op while on. -/
theorem test_prepare_cold :
    after (exec .prepare (withDraws [false] [true] [] fs)) (fun t => t.poweredOn ∧ t.locked ∧
      t.history = [.read 0x80 0, .write 0x80 1, .delay 5, .write 0x80 3, .delay 50, .read 0x88 1,
        .cmdEnd 1 0x20 .ok]) = true ∧
    after (exec .prepare { fs with poweredOn := true })
      (fun t => t.poweredOn ∧ t.history = [.cmdEnd 1 0x20 .ok]) = true := by decide +kernel

/-- 95 P4: the relock branch that times out (37 events), and the one that goes on. -/
theorem test_prepare_relock :
    after (exec .prepare (withDraws [true] misses [] fs)) (fun t => !t.poweredOn ∧ err t = 1 ∧
      t.bank = [(0x80, 3), (0x84, 2)] ∧ t.history.length = 38) = true ∧
    after (exec .prepare (withDraws [true] [true, true] [] { fs with bank := [(0x80, 3), (0x84, 2)] })) (fun t =>
      t.poweredOn ∧ t.bank = [(0x68, 3), (0x80, 3), (0x84, 2)] ∧
      t.history = [.read 0x80 0x83, .read 0x84 2, .write 0x84 2, .delay 10, .write 0x80 1, .delay 5, .write 0x80 3,
        .delay 50, .read 0x88 1, .read 0x68 0, .write 0x68 3, .delay 10, .write 0x80 1, .delay 5, .write 0x80 3,
        .delay 50, .read 0x88 1, .cmdEnd 1 0x20 .ok]) = true := by decide +kernel

/-- 95 section 2.7. -/
theorem test_unprepare : after (exec .unprepare { fs with poweredOn := true, bank := [(0x68, 3), (0x84, 2)] })
    (fun t => !t.poweredOn ∧ !t.locked ∧ t.bank = [(0x84, 1)] ∧
      t.history = [.read 0x8C 0, .write 0x8C 0, .delay 10, .read 0x68 3, .write 0x68 0, .delay 10, .read 0x84 2,
        .write 0x84 1, .delay 10, .cmdEnd 1 0x21 .ok]) = true := by decide +kernel

/-- 95 section 2.7: on, and off. -/
theorem test_enable :
    after (exec .enable { fs with poweredOn := true })
      (fun t => t.history = [.read 0x8C 0, .write 0x8C 1, .barrier, .cmdEnd 1 0x22 .ok]) = true ∧
    after (exec .enable fs) (fun t => err t = 0 ∧ t.history = [.cmdEnd 1 0x22 .ok]) = true := by decide +kernel

/-- 95 section 2.7: a hit on the third attempt, and fifteen misses with 15 reads and 14 delays. -/
theorem test_isEnabled :
    after (exec .isEnabled (withDraws [] [false, false, true] [] fs)) (fun t => rd 0 t = some 1 ∧ t.locked ∧
      t.history = [.read 0x88 0, .delay 1000, .read 0x88 0, .delay 1000, .read 0x88 1, .cmdEnd 1 0x23 .ok]) = true ∧
    after (exec .isEnabled (withDraws [] misses [] fs)) (fun t => rd 0 t = some 0 ∧ err t = 0 ∧ !t.locked ∧
      t.history.length = 30) = true := by decide +kernel

/-- 95 section 2.6: VCO_CNTRL takes the range and the sub-range code in one write. -/
theorem test_postdivSet :
    after (exec .postdivSet (withArgs 2 0 { fs with currentVcoRate := 1200000000 })) (fun t =>
      t.history = [.read 0x60 0, .write 0x60 0x12, .read 0x64 0, .write 0x64 0, .cmdEnd 1 0x30 .ok]) = true ∧
    after (exec .postdivSet (withArgs 3 0 { fs with currentVcoRate := 1200000000 }))
      (fun t => t.bank = [(0x60, 0x22), (0x64, 1)]) = true ∧
    after (exec .postdivSet (withArgs 5 0 { fs with currentVcoRate := 1200000000 }))
      (fun t => t.bank = [(0x60, 0x11), (0x64, 1)]) = true := by decide +kernel

/-- 95 section 2.6: the read-back path at rate 0, and index 6. -/
theorem test_postdivSet_edges :
    after (exec .postdivSet (withArgs 0 0 fs)) (fun t => t.bank = [(0x60, 0x01)] ∧ t.history.length = 7) = true ∧
    after (exec .postdivSet (withArgs 6 0 fs)) (fun t => err t = 2 ∧ t.history.length = 1) = true := by decide +kernel

/-- 95 section 2.6: rows 1 and 4 collide, row 5, and a pattern no row holds. -/
theorem test_postdivGet :
    after (exec .postdivGet { fs with bank := [(0x60, 0x32)] }) (fun t => rd 0 t = some 1 ∧ rd 1 t = some 0) = true ∧
    after (exec .postdivGet { fs with bank := [(0x60, 0x10), (0x64, 1)] }) (fun t => rd 0 t = some 5) = true ∧
    after (exec .postdivGet { fs with bank := [(0x64, 1)] }) (fun t => rd 0 t = some 0 ∧ rd 1 t = some 1 ∧ err t = 0 ∧
      t.history = [.read 0x60 0, .read 0x64 1, .log (.unmappedPostDivIndex 0 1), .cmdEnd 1 0x31 .ok]) = true := by
  decide +kernel

/-- 95 section 2.6: the other bits kept; 7 accepted, 8 rejected. -/
theorem test_gpdivSet :
    after (exec .gpdivSet (withArgs 6 0 { fs with bank := [(0x70, 0xF9)] })) (fun t => t.bank = [(0x70, 0xFE)]) = true ∧
    after (exec .gpdivSet (withArgs 7 0 fs)) (fun t => t.bank = [(0x70, 7)]) = true ∧
    after (exec .gpdivSet (withArgs 8 0 fs)) (fun t => err t = 2 ∧ t.history.length = 1) = true := by decide +kernel

/-- 42 R131. -/
theorem test_gpdivGet : after (exec .gpdivGet { fs with bank := [(0x70, 0xFE)] })
    (fun t => rd 0 t = some 6 ∧ t.history.length = 2) = true := by decide +kernel

/-- 95 section 2.6. -/
theorem test_pixdivRoundRate :
    after (exec .pixdivRoundRate (withArgs 120000000 300000000 fs))
      (fun t => rd 0 t = some 100000000 ∧ rd 1 t = some 3) = true ∧
    after (exec .pixdivRoundRate (withArgs 0 300000000 fs)) (fun t => rd 0 t = some 2343750 ∧ rd 1 t = some 128) = true ∧
    after (exec .pixdivRoundRate (withArgs 400000000 300000000 fs))
      (fun t => rd 0 t = some 300000000 ∧ rd 1 t = some 1) = true ∧
    after (exec .pixdivRoundRate (withArgs 1 0 fs)) (fun t => rd 0 t = some 0 ∧ rd 1 t = some 1) = true := by
  decide +kernel

/-- 95 section 2.6: bit 7 kept; ratio 128 is stored as 127. -/
theorem test_pixdivSetRate :
    after (exec .pixdivSetRate (withArgs 100000000 300000000 { fs with bank := [(0x6C, 0x80)] }))
      (fun t => t.bank = [(0x6C, 0x82)] ∧ rd 1 t = some 3 ∧ rd 0 t = none) = true ∧
    after (exec .pixdivSetRate (withArgs 1 300000000 fs)) (fun t => t.bank = [(0x6C, 0x7F)]) = true := by decide +kernel

/-- 95 section 2.6. -/
theorem test_pixdivRecalcRate :
    after (exec .pixdivRecalcRate (withArgs 0 300000001 { fs with bank := [(0x6C, 0x82)] }))
      (fun t => rd 0 t = some 100000001) = true ∧
    after (exec .pixdivRecalcRate (withArgs 0 300000000 { fs with bank := [(0x6C, 0x7F)] }))
      (fun t => rd 0 t = some 2343750) = true := by decide +kernel

/-- 95 section 2.8: a hit captures the rate, fifteen misses capture 0. -/
theorem test_save :
    after (exec .save (withDraws [] [true] [] { fs with currentVcoRate := 1200000000, bank := [(0x6C, 2)] })) (fun t =>
      t.cache = ⟨0, 0, 0, 2, 1200000000⟩ ∧ t.cacheStatus = .valid ∧ rd 0 t = some 1200000000 ∧
      t.history = [.read 0x60 0, .read 0x64 0, .read 0x68 0, .read 0x6C 2, .read 0x88 1, .cmdEnd 1 0x40 .ok]) = true ∧
    after (exec .save (withDraws [] misses [] { fs with currentVcoRate := 1200000000 })) (fun t =>
      t.cache.rate = 0 ∧ t.cacheStatus = .valid ∧ rd 0 t = some 0) = true := by decide +kernel

/-- A saved cache over a bank whose PIXDIV was written since, as in 95 P3. -/
def saved : State :=
  { fs with cache := ⟨0, 0, 0, 2, 1200000000⟩, cacheStatus := .valid, bank := [(0x6C, 9)] }

/-- 95 P3: PIXDIV is the saved byte; 95 section 2.8: a draw of false writes none of the four. -/
theorem test_restore :
    after (exec .restore (withDraws [] [] [true] saved)) (fun t => t.stored 0x6C = 2 ∧ t.stored 0x18 = 0x47 ∧
      t.cacheStatus = .consumed ∧ t.currentVcoRate = 1200000000 ∧ err t = 0 ∧ t.history.length = 32) = true ∧
    after (exec .restore (withDraws [] [] [false] saved)) (fun t => t.stored 0x6C = 9 ∧ t.stored 0x18 = 0x47 ∧
      t.cacheStatus = .valid ∧ err t = 1 ∧ t.history.length = 28) = true := by decide +kernel

/-- 95 P6: RESTORE of a cache never saved, and a step after the fault. -/
theorem test_restore_fault :
    after (exec .restore fs) (fun t => t.fault = some .cacheNotSaved ∧ t.history = [] ∧
      (match step t with
        | .fault .cacheNotSaved => true
        | _ => false) = true) = true := by decide +kernel

/-! ### Two agents (95 P7) and illegal words (95 section 2.9) -/

/-- Agent 1 starts the first word and agent 2 the second. -/
def overlapping (v w : Word) : Result :=
  match step (scheduled [.agent 1, .agent 2] (withProgram 2 [.writeCmd w] (withProgram 1 [.writeCmd v] fs))) with
  | .next t => step t
  | r => r

theorem test_overlap :
    after (overlapping 0x30 0x32) (fun t => t.fault = none ∧ t.postdivLock = .held 1 ∧ t.gpdivLock = .held 2) = true ∧
    after (overlapping 0x30 0x31) (fun t => t.fault = none ∧ t.inProgress = [(1, 0x30)] ∧
      (t.host 2).program = [.writeCmd 0x31]) = true ∧
    after (overlapping 0x20 0x11) (fun t => t.fault = some .unserialized) = true ∧
    after (overlapping 0x11 0x10) (fun t => t.fault = none ∧ t.inProgress = [(1, 0x11), (2, 0x10)]) = true := by
  decide +kernel

/-- A launch under FX, its construction next, with an outcome listed. -/
def launch (d : ConstructDraw) : State :=
  scheduled [.construct] { fs with constructed := false, env := { fs.env with construct := [d] } }

/-- A launch whose construction has failed with DeviceAbsent. -/
def failed : State :=
  match step (launch .deviceAbsent) with
  | .next t => t
  | _ => fs

/-- An illegal word placed for agent 1 ends with IllegalCommand. -/
theorem test_illegal :
    after (step (fs.withFetchWord 32 0x111)) (fun t => err t = 5 ∧ t.inProgress = [] ∧ t.bank = []) = true ∧
    after (step (fs.withFetchWord 32 0x80000020)) (fun t => err t = 5 ∧ !t.poweredOn) = true ∧
    after (step (failed.withFetchWord 32 0x42)) (fun t => err t = 4) = true := by
  decide +kernel

/-- Every row of the opcode table runs as the first command after reset. -/
theorem test_first_command :
    ∀ w ∈ [1, 2, 3, 4, 0x10, 0x11, 0x12, 0x20, 0x21, 0x22, 0x23, 0x30, 0x31, 0x32, 0x33, 0x34, 0x35, 0x36, 0x40, 0x41],
      after (step (State.reset.withFetchWord 32 w)) (fun _ => true) = true := by decide

/-! ### Witnesses: concrete states and operands that meet the hypotheses of each obligation -/

/-- Agent 1's POSTDIV_SET in progress, its lock held. -/
def muxBusy : State := { fs with inProgress := [(1, 0x30)], postdivLock := .held 1 }

/-- Agent 1's GPDIV_SET in progress, its lock held. -/
def gpBusy : State := { fs with inProgress := [(1, 0x32)], gpdivLock := .held 1 }

/-- Agent 1's SET_RATE in progress. -/
def rateBusy : State := { fs with inProgress := [(1, 0x11)] }

/-- FX with the GP divider at VCO_CNTRL's offset, its field in bits 5:3 of nothing else's use here. -/
def fxShared : Params := { fx with offsets := fx.offsets.set 21 0x060 }

/-- Agent `a`'s next move is an operation. -/
def about (a : Nat) (op : HostOp) (s : State) : State := scheduled [.agent a] (withProgram a [op] s)

theorem test_hyp_DecodeEncodeAgree :
    Instr.gcd.wellFormed = true ∧ decode 0x02#32 = .ok .gcd ∧ (0x100#32).toNat / 256 ≠ 0 ∧
    (0xFF#32).toNat / 256 = 0 ∧ ∀ i, 0xFF#32 ≠ encode i := by
  refine ⟨rfl, by decide, by decide, by decide, ?_⟩
  intro i
  cases i <;> decide

theorem test_hyp_StepRunsDecodedCommand :
    let s := scheduled [.agent 1] muxBusy
    s.fault = none ∧ s.refused = none ∧ s.started = true ∧ s.schedule = .agent 1 :: [] ∧ agentExists s.cfg 1 = true ∧
    Sparse.find? s.inProgress 1 = some 0x30 ∧ decode 0x30 = .ok .postdivSet ∧
    decode (BitVec.ofNat 32 0x41) = .ok .restore := by decide +kernel

/-- The hypotheses on a state in which agent 2 starts `w` with nothing in progress. -/
abbrev StartsAlone (w : Word) (s : State) : Prop :=
  s.fault = none ∧ s.refused = none ∧ s.started = true ∧ s.inProgress = [] ∧ s.postdivLock = .free ∧
  s.gpdivLock = .free ∧ s.schedule = .agent 2 :: [] ∧ agentExists s.cfg 2 = true ∧
  ((s.host 2).program = .writeCmd w :: [] ∨ (s.host 2).program = .writeCmdIfOk w :: [] ∧ (s.iface 2).err = 0)

theorem test_hyp_StartEntersCommand :
    StartsAlone 0x30 (about 2 (.writeCmd 0x30) fs) ∧ decode 0x30 = .ok .postdivSet ∧
    StartsAlone 0x32 (about 2 (.writeCmd 0x32) fs) ∧ decode 0x32 = .ok .gpdivSet ∧
    StartsAlone 0x02 (about 2 (.writeCmd 0x02) fs) ∧ decode 0x02 = .ok .gcd := by decide +kernel

/-- The conditional issue, and a start on a block whose construction failed. -/
theorem test_hyp_StartEntersCommand_more :
    StartsAlone 0x32 (about 2 (.writeCmdIfOk 0x32) fs) ∧ StartsAlone 0x30 (about 2 (.writeCmd 0x30) failed) :=
  ⟨by decide +kernel, by decide +kernel⟩

theorem test_hyp_SameMuxStartHolds :
    (let s := about 2 (.writeCmd 0x31) muxBusy
     s.fault = none ∧ s.refused = none ∧ s.started = true ∧ s.schedule = .agent 2 :: [] ∧ agentExists s.cfg 2 = true ∧
     Sparse.find? s.inProgress 2 = none ∧ (s.host 2).program = .writeCmd 0x31 :: [] ∧
     Sparse.find? s.inProgress 1 = some 0x30 ∧ decode 0x30 = .ok .postdivSet ∧ decode 0x31 = .ok .postdivGet) ∧
    (let s := about 2 (.writeCmd 0x33) gpBusy
     s.fault = none ∧ s.refused = none ∧ s.started = true ∧ s.schedule = .agent 2 :: [] ∧ agentExists s.cfg 2 = true ∧
     Sparse.find? s.inProgress 2 = none ∧ (s.host 2).program = .writeCmd 0x33 :: [] ∧
     Sparse.find? s.inProgress 1 = some 0x32 ∧ decode 0x32 = .ok .gpdivSet ∧ decode 0x33 = .ok .gpdivGet) := by
  decide +kernel

/-- A command without a lock beside one that takes a lock, both ways round, and the two muxes at one offset. -/
theorem test_hyp_UnpermittedOverlapFaults :
    (let s := about 2 (.writeCmd 0x11) muxBusy
     s.fault = none ∧ s.refused = none ∧ s.started = true ∧ s.schedule = .agent 2 :: [] ∧ agentExists s.cfg 2 = true ∧
     Sparse.find? s.inProgress 2 = none ∧ (s.host 2).program = .writeCmd 0x11 :: [] ∧ s.inProgress = [(1, 0x30)]) ∧
    (let s := about 2 (.writeCmd 0x30) rateBusy
     s.fault = none ∧ s.refused = none ∧ s.started = true ∧ s.schedule = .agent 2 :: [] ∧ agentExists s.cfg 2 = true ∧
     Sparse.find? s.inProgress 2 = none ∧ (s.host 2).program = .writeCmd 0x30 :: [] ∧ s.inProgress = [(1, 0x11)]) ∧
    (let s := about 2 (.writeCmd 0x32) { muxBusy with cfg := fxShared }
     s.fault = none ∧ s.refused = none ∧ s.started = true ∧ s.schedule = .agent 2 :: [] ∧ agentExists s.cfg 2 = true ∧
     Sparse.find? s.inProgress 2 = none ∧ (s.host 2).program = .writeCmd 0x32 :: [] ∧ s.inProgress = [(1, 0x30)] ∧
     s.cfg.offset .vcoCntrl = s.cfg.offset .gpdivReg) ∧
    decode 0x30 = .ok .postdivSet ∧ decode 0x11 = .ok .setRate ∧ decode 0x32 = .ok .gpdivSet := by decide +kernel

theorem test_hyp_LocksMatch :
    LocksMatch (about 2 (.writeCmd 0x11) muxBusy) ∧ LocksMatch (about 2 (.writeCmd 0x30) rateBusy) ∧
    LocksMatch (about 2 (.writeCmd 0x32) { muxBusy with cfg := fxShared }) ∧ LocksMatch gpBusy ∧ LocksMatch fs :=
  ⟨locksMatch_postdiv rfl (by decide) rfl rfl, locksMatch_other rfl (.inl (by decide)) rfl rfl,
    locksMatch_postdiv rfl (by decide) rfl rfl, locksMatch_gpdiv rfl (by decide) rfl rfl, locksMatch_idle rfl rfl rfl⟩

/-- A pure newcomer, a pure command already there, the two muxes apart both ways round. -/
theorem test_hyp_PermittedOverlapStarts :
    (∀ x ∈ [(0x10#32, rateBusy), (0x11#32, inProgress 1 0x02 fs), (0x32#32, muxBusy), (0x31#32, gpBusy)],
      let s := about 2 (.writeCmd x.1) x.2
      s.fault = none ∧ s.refused = none ∧ s.started = true ∧ s.schedule = .agent 2 :: [] ∧ agentExists s.cfg 2 = true ∧
      Sparse.find? s.inProgress 2 = none ∧ (s.host 2).program = .writeCmd x.1 :: [] ∧
      s.cfg.offset .vcoCntrl ≠ s.cfg.offset .gpdivReg ∧ s.cfg.offset .cpBias ≠ s.cfg.offset .gpdivReg ∧
      s.cfg.offset s.cfg.subrangeReg.reg ≠ s.cfg.offset .gpdivReg) ∧
    decode 0x10 = .ok .roundRate ∧ decode 0x11 = .ok .setRate ∧ decode 0x02 = .ok .gcd ∧
    decode 0x30 = .ok .postdivSet ∧ decode 0x31 = .ok .postdivGet ∧ decode 0x32 = .ok .gpdivSet := by decide +kernel

theorem test_hyp_PermittedOverlapStarts_locks :
    LocksMatch (about 2 (.writeCmd 0x10) rateBusy) ∧ LocksMatch (about 2 (.writeCmd 0x11) (inProgress 1 0x02 fs)) ∧
    LocksMatch (about 2 (.writeCmd 0x32) muxBusy) ∧ LocksMatch (about 2 (.writeCmd 0x31) gpBusy) :=
  ⟨locksMatch_other rfl (.inl (by decide)) rfl rfl, locksMatch_other rfl (.inr (by decide)) rfl rfl,
    locksMatch_postdiv rfl (by decide) rfl rfl, locksMatch_gpdiv rfl (by decide) rfl rfl⟩

theorem test_hyp_StuckBlockRunsNothing :
    (fs.raiseFault .unserialized).fault = some .unserialized ∧
    (fs.markRefused .sscOutOfExactDomain).fault = none ∧
    (fs.markRefused .sscOutOfExactDomain).refused = some .sscOutOfExactDomain := by decide

/-- The hypotheses on a state in which agent 1 starts and finishes `w`. -/
abbrev StartsAndEnds (w : Word) (s : State) : Prop :=
  Ready s ∧ s.inProgress = [] ∧ s.schedule = .agent 1 :: .agent 1 :: [] ∧ agentExists s.cfg 1 = true ∧
  (s.host 1).program = .writeCmd w :: []

/-- A word for agent 1, who has the next two moves. -/
def twice (w : Word) : State := scheduled [.agent 1, .agent 1] (withProgram 1 [.writeCmd w] fs)

/-- The lowest word with a reserved bit set, and reserved opcodes next to the table's. -/
theorem test_hyp_IllegalWordStartsAndEnds :
    StartsAndEnds 0x100 (twice 0x100) ∧ (0x100 : Word).toNat / 256 ≠ 0 ∧
    StartsAndEnds 0x42 (twice 0x42) ∧ (0x42 : Word).toNat % 256 ∉ [0x01, 0x02, 0x03, 0x04, 0x10, 0x11, 0x12, 0x20, 0x21,
      0x22, 0x23, 0x30, 0x31, 0x32, 0x33, 0x34, 0x35, 0x36, 0x40, 0x41] ∧
    StartsAndEnds 0x00 (twice 0x00) ∧ (0x00 : Word).toNat % 256 ∉ [0x01, 0x02, 0x03, 0x04, 0x10, 0x11, 0x12, 0x20, 0x21,
      0x22, 0x23, 0x30, 0x31, 0x32, 0x33, 0x34, 0x35, 0x36, 0x40, 0x41] := by decide +kernel

theorem test_hyp_IllegalWordStartsAndEnds_locks : LocksMatch (twice 0x100) ∧ LocksMatch (twice 0x42) :=
  ⟨locksMatch_idle rfl rfl rfl, locksMatch_idle rfl rfl rfl⟩

theorem test_hyp_HostReadsResults :
    (∀ op ∈ [HostOp.readRes 0, .readRes 5, .copyRes 5 .arg1, .writeArg .arg0 7, .readErr, .readCmd,
        .writeCmdIfOk 0x22],
      let s := about 1 op fs
      s.fault = none ∧ s.refused = none ∧ s.started = true ∧ s.schedule = .agent 1 :: [] ∧
      agentExists s.cfg 1 = true ∧ Sparse.find? s.inProgress 1 = none ∧ (s.host 1).program = op :: []) ∧
    ((about 1 (.readRes 5) (fs.setRes 5 7)).iface 1).resv[5] = true ∧
    ((about 1 (.readRes 0) fs).iface 1).resv[0] = false ∧
    ((about 1 (.writeCmdIfOk 0x22) failed).iface 1).err ≠ 0 := by decide +kernel

/-- One operation of each kind: 30 R68 to R70, 10 R23. -/
theorem test_hostOps :
    after (step (about 1 (.writeArg .arg1 9) fs)) (fun t => (t.iface 1).arg1 = 9 ∧ (t.iface 1).arg0 = 0) = true ∧
    after (step (about 1 (.copyRes 5 .arg0) (fs.setRes 5 7))) (fun t => (t.iface 1).arg0 = 7) = true ∧
    after (step (about 1 .readErr failed)) (fun t => (t.host 1).reads = [4]) = true ∧
    after (step (about 1 (.writeCmdIfOk 0x22) failed)) (fun t => t.inProgress = [] ∧ t.history = []) = true := by
  decide +kernel

/-- Every command gives a next state from the construction state. -/
theorem test_hyp_CommandsOnlyReadArguments : ∀ i ∈ [Instr.multX100, .gcd, .plan, .sscCompute, .roundRate, .setRate,
    .recalcRate, .prepare, .unprepare, .enable, .isEnabled, .postdivSet, .postdivGet, .gpdivSet, .gpdivGet,
    .pixdivRoundRate, .pixdivSetRate, .pixdivRecalcRate, .save, .restore],
      after (exec i (withDraws [false] misses [] fs)) (fun _ => true) = true := by decide +kernel

theorem test_hyp_AgentsKeepTheirInterfaces :
    (about 1 .readErr fs).schedule = .agent 1 :: [] ∧
    after (step (about 1 .readErr fs)) (fun t => (t.host 1).reads = [0]) = true ∧
    (let s := about 1 (.writeCmd 0x02) launchState
     s.fault = none ∧ s.refused = none ∧ s.constructed = false ∧ s.constructFailed = false ∧
     s.schedule = .agent 1 :: [] ∧
     after (step s) (fun t => t.inProgress = [] ∧ (t.host 1).program = [.writeCmd 0x02]) = true) := by
  decide +kernel

theorem test_hyp_DeviceAbsentBeforeConstruction :
    launchState.fault = none ∧ launchState.refused = none ∧ launchState.constructed = false := by decide

/-- The three outcomes, and a configuration that is refused. -/
theorem test_hyp_ConstructionOutcomes :
    (∀ d ∈ [ConstructDraw.success, .allocationFailure, .deviceAbsent],
      (launch d).fault = none ∧ (launch d).refused = none ∧ (launch d).constructed = false ∧
      (launch d).constructFailed = false ∧ (launch d).schedule = .construct :: [] ∧
      (launch d).cfg.wellFormed = true ∧ (launch d).env.construct = [d]) ∧
    ({ launch .success with cfg := { fx with hostAgents := 0 } } : State).cfg.wellFormed = false ∧
    after (step (launch .success)) (fun t => t.constructed ∧ !t.constructFailed) = true ∧
    after (step (launch .deviceAbsent)) (fun t => !t.constructed ∧ t.constructFailed ∧ err t = 4) = true ∧
    fs.constructed = true ∧ failed.constructFailed = true := by decide +kernel

/-- 70 R221: a failed construction is fatal; a later construct turn changes nothing, and a command of agent 2 then
starts and ends with DeviceAbsent. -/
theorem test_failedConstruction :
    after (step (scheduled [.construct] { failed with env := { failed.env with construct := [.success] } }))
      (fun t => !t.constructed ∧ t.constructFailed ∧ t.env.construct = [.success]) = true ∧
    after (step (scheduled [.agent 2, .agent 2] (withProgram 2 [.writeCmd 0x02] failed))) (fun t =>
      t.inProgress = [(2, 0x02)] ∧ after (step t) (fun u => (u.iface 2).err = 4 ∧ u.inProgress = [] ∧
        u.history = [.cmdStart 2 0x02, .cmdEnd 2 0x02 .deviceAbsent])) = true := by decide +kernel

theorem test_hyp_PowerCollapseLosesBankOnly :
    (let s := scheduled [.powerCollapse] { saved with env := { fs.env with images := [[(0x10, 1)]] } }
     s.fault = none ∧ s.refused = none ∧ s.schedule = .powerCollapse :: [] ∧ s.inProgress = [] ∧
     s.env.images = [(0x10, 1)] :: [] ∧
     after (step s) (fun t => t.stored 0x10 = 1 ∧ t.stored 0x6C = 0 ∧ t.cache.pixdiv = 2) = true) ∧
    (let s := scheduled [.powerCollapse] muxBusy
     s.fault = none ∧ s.refused = none ∧ s.schedule = .powerCollapse :: [] ∧ s.inProgress ≠ []) := by decide +kernel

theorem test_hyp_ConfigurationAndHistoryStand :
    after (step (scheduled [.agent 1] muxBusy)) (fun t => t.history.length = 7) = true ∧
    muxBusy.constructed = true ∧ failed.constructed = false ∧ failed.constructFailed = true ∧
    after (step (scheduled [.construct] failed)) (fun t => t.constructFailed) = true := by decide +kernel

/-- Each clause: a command that does write the field. -/
theorem test_hyp_RuntimeStateWriters :
    after (exec .prepare (withDraws [false] [true] [] fs)) (fun t => t.poweredOn != fs.poweredOn) = true ∧
    after (exec .unprepare { fs with poweredOn := true, locked := true }) (fun t => !t.poweredOn ∧ !t.locked) = true ∧
    after (exec .setRate (withArgs 1000000000 0 fs)) (fun t => t.currentVcoRate != fs.currentVcoRate) = true ∧
    after (exec .save (withDraws [] [true] [] { fs with currentVcoRate := 5 }))
      (fun t => t.cache != fs.cache ∧ t.cacheStatus != fs.cacheStatus) = true ∧
    after (exec .restore (withDraws [] [] [true] saved)) (fun t => t.cacheStatus != saved.cacheStatus) = true := by
  decide +kernel

/-- A field of width 8, one of width 7, and one at the top bit. -/
theorem test_hyp_FieldWriteReadModifyWrite :
    (fx.fd .hsfreq).inByte = true ∧ (fx.fd .hsfreq).width = 8 ∧
    (fx.fd .pixdiv).inByte = true ∧ (fx.fd .pixdiv).width = 7 ∧ (fx.fd .pixdivTop).inByte = true ∧
    (fx.fd .pixdivTop).lsb = 7 ∧
    fx.offset (fx.fd .pixdiv).reg ≠ fx.offset .lockStatus ∧ fx.offset (fx.fd .pixdiv).reg ≠ fx.offset .sysCtrl ∧
    (fx.fd .lock).mask.getLsbD 1 = false ∧ (fx.fd .running).mask.getLsbD 6 = false := by decide

theorem test_hyp_VolatileReadsAreDraws :
    fs.cfg.wellFormed = true ∧ (withDraws [true] [false] [] fs).env.lock = [false] ∧
    (withDraws [true] [false] [] fs).env.running = [true] := ⟨test_fx_wellFormed, by decide, by decide⟩

/-- The premise of every completion statement holds of the construction state. -/
theorem test_hyp_Ready : Ready fs ∧ Ready (withArgs 1 2 fs) ∧ Ready fsSsc ∧ Ready saved := by decide

/-- `Ready` with a well-formed configuration. -/
theorem test_hyp_Ready_wellFormed :
    (Ready fs ∧ fs.cfg.wellFormed = true) ∧ (Ready fsSsc ∧ fsSsc.cfg.wellFormed = true) ∧
    (Ready saved ∧ saved.cfg.wellFormed = true) :=
  ⟨⟨by decide, test_fx_wellFormed⟩, ⟨by decide, test_fxSsc_wellFormed⟩, ⟨by decide, test_fx_wellFormed⟩⟩

theorem test_hyp_PlanResult :
    (withArgs 1000000000 0 fs).arg1 ≤ 5 ∧ (withArgs 1000000000 5 fs).arg1 ≤ 5 := by decide

theorem test_hyp_OutOfRangeIndexRejected :
    5 < (withArgs 0 6 fs).arg1 ∧ 5 < (withArgs 6 0 fs).arg0 ∧ 7 < (withArgs 8 0 fs).arg0 := by decide

/-- The clauses of the lookups at the values where bands meet, and the worked band's ends. -/
theorem test_hyp_BandLookups :
    fx.hsfreqTable.length = 7 ∧ fx.subrangeTable.length = 16 ∧
    rangeSelect fx 79 = 0x00 ∧ rangeSelect fx 80 = 0x00 ∧ rangeSelect fx 999 = 0x00 ∧ rangeSelect fx 1000 = 0x10 ∧
    rangeSelect fx 2399 = 0x36 ∧ rangeSelect fx 2400 = 0x47 ∧ rangeSelect fx 2449 = 0x47 ∧
    rangeSelect fx 2450 = 0x57 ∧ rangeSelect fx 2500 = 0x08 ∧ rangeSelect fx 100000 = 0x08 ∧
    subRange fx 29 = 1 ∧ subRange fx 30 = 1 ∧ subRange fx 60 = 2 ∧ subRange fx 1799 = 3 ∧ subRange fx 1800 = 2 := by
  decide

/-- Both clauses at the bound of 40 R92 (95 section 2.3). -/
theorem test_hyp_LoopRatioReproducesTarget :
    loopDiv 19658399999 = 4095 ∧ loopRate 63 63 = 19656000000 ∧ loopDiv 19658400000 = 0 ∧ loopRate 0 0 = 0 ∧
    loopDiv 1202400000 = 251 ∧ loopRate 59 3 = 1204800000 := by decide

/-- The last rate inside the exact domain, and the first rate at which a product reaches 2^64 (41 R107). -/
theorem test_hyp_SscProductsFit :
    (withArgs 5404319539199999 0 fs).arg0 < 5404319539200000 ∧
    (multX100 5404319553599999).1 * 5000 * 2 ^ 17 < 2 ^ 64 ∧
    2 ^ 64 ≤ (multX100 5404319553600000).1 * 5000 * 2 ^ 17 := by decide +kernel

theorem test_hyp_OutOfDomainRefused :
    5404319539200000 ≤ (withArgs 5404319539200000 0 fsSsc).arg0 ∧ fsSsc.cfg.sscEnabled = true ∧
    ({ fsSsc with cacheStatus := .valid, cache := ⟨0, 0, 0, 0, 5404319539200000⟩ } : State).cacheStatus ≠ .empty ∧
    5404319539200000 ≤
      ({ fsSsc with cacheStatus := .valid, cache := ⟨0, 0, 0, 0, 5404319539200000⟩ } : State).cache.rate.toNat := by
  decide

/-- SET_RATE with SSC on at the last rate it accepts, and with SSC off. -/
theorem test_hyp_SetRateCompletes :
    (fsSsc.cfg.sscEnabled = true → (withArgs 5404319539199999 0 fsSsc).arg0 < 5404319539200000) ∧
    (fs.cfg.sscEnabled = true → (withArgs 5404319539200000 0 fs).arg0 < 5404319539200000) := by decide

theorem test_hyp_SetRateProgramsFields :
    (∃ t, exec .setRate (withArgs 1000000000 0 fsSsc) = .next t) ∧
    (RegName.phaseErrCtrl, fx.srPhaseErr) ∈ fx.srLists ∧
    fx.srPhaseErr = [] ++ ⟨0, 4, 0x6⟩ :: [⟨4, 4, 0x7⟩] ∧
    (∀ w' ∈ [FixedWrite.mk 4 4 0x7], w'.fd .phaseErrCtrl ≠ (FixedWrite.mk 0 4 0x6).fd .phaseErrCtrl) ∧
    fxSsc.sscByteMap = [] ++ ⟨0, 0, 8, .peak, 0⟩ :: fx.sscByteMap.drop 1 ∧
    (∀ e' ∈ fx.sscByteMap.drop 1, e'.fd ≠ (SscEntry.mk 0 0 8 .peak 0).fd) := by
  refine ⟨?_, by decide, by decide, by decide, by decide, by decide⟩
  obtain ⟨t, h, -⟩ := after_next (f := fun _ => true) (r := exec .setRate (withArgs 1000000000 0 fsSsc)) (by decide)
  exact ⟨t, h⟩

theorem test_hyp_RecalcRateReports :
    ({ fs with currentVcoRate := 1 } : State).currentVcoRate ≠ 0 ∧ fs.currentVcoRate = 0 := by decide

/-- SET_RATE of a rate that is not 0, and a constructed block of rate 0 over the bank it leaves. -/
theorem test_hyp_SetRateThenRecalc :
    (withArgs 1202400000 0 fs).arg0 ≠ 0 ∧
    after (exec .setRate (withArgs 1202400000 0 fs)) (fun t =>
      decide (Ready { fs with bank := t.bank }) && decide (({ fs with bank := t.bank } : State).currentVcoRate = 0) &&
      after (exec .recalcRate { fs with bank := t.bank }) (fun u => rd 0 u = some 1204800000)) = true := by
  decide +kernel

/-- A hit on the first and on the fifteenth attempt, and a miss. -/
theorem test_hyp_LockPollFollowsDraws :
    (withDraws [] (List.replicate 0 false ++ true :: [false]) [] fs).env.lock =
      List.replicate 0 false ++ true :: [false] ∧
    (lockPoll (withDraws [] (List.replicate 14 false ++ true :: []) [] fs)).1 = true ∧
    (lockPoll (withDraws [] (List.replicate 15 false ++ [true]) [] fs)).1 = false := by decide +kernel

theorem test_hyp_Lifecycle :
    fx.offset .sysCtrl ≠ fx.offset .lockStatus ∧ (withDraws [false] misses [] fs).env.lock = misses ++ [] ∧
    after (exec .prepare (withDraws [false] (List.replicate 14 false ++ [true]) [] fs)) (fun t => t.poweredOn) = true ∧
    ({ fs with poweredOn := true } : State).poweredOn = true ∧ fs.poweredOn = false ∧
    ((withDraws [false] [true] [] fs).fieldRead (fx.fd .running)).1 = 0 ∧
    ((withDraws [true] misses [] fs).fieldRead (fx.fd .running)).1 = 1 := by decide +kernel

/-- FX with a clock-select field that fills its byte. -/
def fxClk8 : Params := { fx with widthClksel := 8 }

/-- The relock branch: a miss and a hit, each over a well-formed configuration, the offsets apart, with a clock-select
field of width 2 and one of width 8. -/
theorem test_hyp_PrepareRelockPath :
    (∀ p ∈ [fx, fxClk8], ∀ l ∈ [misses, [true, true]],
      let s : State := { withDraws [true] l [] fs with cfg := p }
      Ready s ∧ s.poweredOn = false ∧ (s.fieldRead (p.fd .running)).1 = 1 ∧ p.wellFormed = true) ∧
    (∀ p ∈ [fx, fxClk8], p.offset .pwrupCtrl ≠ p.offset .sysCtrl ∧ p.offset .pllCntrl ≠ p.offset .sysCtrl ∧
      p.offset .sysCtrl ≠ p.offset .lockStatus ∧ p.offset .pwrupCtrl ≠ p.offset .lockStatus) ∧
    FieldName.gpdiv ∉ [FieldName.ovrEn, .ovr, .clksel, .lock, .running] ∧
    fx.offset (fx.fd .gpdiv).reg ≠ fx.offset .sysCtrl := by decide +kernel

/-- 44 R164, R166: the bank after a relock whose poll hits, the clock-select bits filling their byte, and after one
whose poll misses: nothing is rolled back. -/
theorem test_prepare_relock_bank :
    after (exec .prepare { withDraws [true] [true, true] [] fs with cfg := fxClk8, bank := [(0x84, 0xF1)] }) (fun t =>
      t.bank = [(0x68, 0xFF), (0x80, 3), (0x84, 0xF2)]) = true ∧
    after (exec .prepare { withDraws [true] misses [] fs with cfg := fxClk8, bank := [(0x84, 0xF1)] }) (fun t =>
      t.bank = [(0x80, 3), (0x84, 0xF2)]) = true := by decide +kernel

theorem test_hyp_PostdivSetWrites :
    (withArgs 0 0 fs).arg0 = (0 : Fin 6).val ∧ (withArgs 5 0 fs).arg0 = (5 : Fin 6).val := by decide

/-- A row that is met, rows 1 and 4 alike, and a pattern that no row holds. -/
theorem test_hyp_PostdivGetDecodes :
    (∀ k : Fin 6, k < (1 : Fin 6) → ¬(fx.postdivTable[k.val].rc.toNat = 3 ∧ fx.postdivTable[k.val].bc.toNat = 0)) ∧
    fx.postdivTable[1].rc.toNat = 3 ∧ fx.postdivTable[1].bc.toNat = 0 ∧
    (∀ k : Fin 6, ¬(fx.postdivTable[k.val].rc.toNat = 0 ∧ fx.postdivTable[k.val].bc.toNat = 1)) := by decide

theorem test_hyp_GpdivSetWrites : (withArgs 0 0 fs).arg0 ≤ 7 ∧ (withArgs 7 0 fs).arg0 ≤ 7 ∧
    ({ fs with bank := [(0x70, 5)] } : State).gpdivParent = some 32 ∧
    ({ fs with bank := [(0x70, 6)] } : State).gpdivParent = none ∧ fs.gpdivParent = some 1 := by decide +kernel

/-- Index 5, first of its kind; index 4, whose first equal row is 1. -/
theorem test_hyp_DividerRoundTrips :
    (withArgs 4 0 fs).arg0 = (4 : Fin 6).val ∧ fx.postdivTable[1] = fx.postdivTable[4] ∧
    (∀ k : Fin 6, k < (1 : Fin 6) → fx.postdivTable[k.val] ≠ fx.postdivTable[4]) ∧
    (∀ k : Fin 6, k < (5 : Fin 6) → fx.postdivTable[k.val] ≠ fx.postdivTable[5]) := by decide

/-- The ratio's clauses where they meet (42 R133). -/
theorem test_hyp_PixdivRatio :
    pixRatio 0 300000000 = 128 ∧ pixRatio 1 0 = 1 ∧ pixRatio 10 1280 = 128 ∧ pixRatio 10 1284 = 128 ∧
    pixRatio 10 1274 = 127 ∧ pixRatio 10 1275 = 128 ∧ pixRatio 10 14 = 1 ∧ pixRatio 10 15 = 2 := by decide

/-- SAVE's three cases: a miss, a hit with a rate, a hit with rate 0. -/
theorem test_hyp_SaveCaptures :
    after (exec .save (withDraws [] misses [] fs)) (fun t => !t.locked) = true ∧
    after (exec .save (withDraws [] [true] [] { fs with currentVcoRate := 7 })) (fun t => t.locked ∧ rd 0 t = some 7) = true ∧
    after (exec .save (withDraws [] [true] [] { fs with bank := [(0x28, 16), (0x2C, 3)] }))
      (fun t => t.locked ∧ rd 0 t = some 998400000) = true := by decide +kernel

/-- The captured registers hold no volatile field under FX. -/
theorem test_hyp_capturedRegs : ∀ r ∈ capturedRegs, PlainOffset fx r := by
  simp only [capturedRegs, PlainOffset, List.mem_cons, List.not_mem_nil, or_false]
  rintro r (rfl | rfl | rfl | rfl) <;> decide

theorem test_hyp_RestoreNeverSavedFaults : fs.cacheStatus = .empty := rfl

/-- Both draws, with SSC off and with SSC on at the last rate accepted; no two captured registers share an offset. -/
theorem test_hyp_RestoreFollowsDraw :
    saved.cacheStatus ≠ .empty ∧ (saved.cfg.sscEnabled = true → saved.cache.rate.toNat < 5404319539200000) ∧
    (fxSsc.sscEnabled = true → (5404319539199999 : DWord).toNat < 5404319539200000) ∧
    (withDraws [] [] [true] saved).env.restore = true :: [] ∧
    (withDraws [] [] [false] saved).env.restore = false :: [] ∧
    (∀ r ∈ capturedRegs, ∀ r' ∈ capturedRegs, fx.offset r' = fx.offset r →
      saved.cache.byte r' = saved.cache.byte r) := by
  refine ⟨by decide, by decide, by decide, by decide, by decide, ?_⟩
  decide

/-- A SAVE whose poll hits and a RESTORE whose draw is true. -/
theorem test_hyp_SaveThenRestore :
    ∃ s t u : State, Ready s ∧ s.cfg.wellFormed = true ∧ (∀ r ∈ capturedRegs, PlainOffset s.cfg r) ∧
      exec .save s = .next t ∧ t.locked = true ∧ exec .restore t = .next u ∧ u.refused = none ∧
      (u.iface u.turn).err = 0 ∧ u.stored 0x6C = 0x85 := by
  have h : after (exec .save (withDraws [] [true] [true]
      { fs with currentVcoRate := 1200000000, bank := [(0x6C, 0x85)] })) (fun t => t.locked &&
        after (exec .restore t) (fun u => decide (u.refused = none ∧ (u.iface u.turn).err = 0 ∧
          u.stored 0x6C = 0x85))) = true := by decide +kernel
  obtain ⟨t, ht, h⟩ := after_next h
  rw [Bool.and_eq_true] at h
  obtain ⟨u, hu, h2⟩ := after_next h.2
  obtain ⟨h3, h4, h5⟩ := of_decide_eq_true h2
  exact ⟨_, t, u, by decide, test_fx_wellFormed, test_hyp_capturedRegs, ht, h.1, hu, h3, h4, h5⟩

theorem test_hyp_StepKeepsCanonical :
    (scheduled [.agent 1] muxBusy).canonical = true ∧
    after (step (scheduled [.agent 1] muxBusy)) (fun t => t.canonical ∧ t.bank = [(0x60, 1)]) = true := by
  decide +kernel

theorem test_hyp_StepKeepsLocksMatched :
    LocksMatch (scheduled [.agent 1] muxBusy) ∧ AgentsAwaitConstruction (scheduled [.agent 1] muxBusy) ∧
    AgentsAwaitConstruction (launch .success) ∧ (launch .success).started = false ∧
    after (step (scheduled [.agent 1] muxBusy)) (fun t => t.postdivLock = .free) = true :=
  ⟨locksMatch_postdiv rfl (by decide) rfl rfl, fun h => absurd h (by decide), fun _ => rfl, rfl, by decide +kernel⟩

end Sys2Proof.Tests
end

/-! PROOFS. The invariants of a step: canonical lists (10 R40) and matched mux locks (20 R59). -/

namespace Sys2Proof.Machine

/-! ### Canonical lists -/

theorem State.canonical_iff {s : State} : s.canonical = true ↔
    Memory.wf s.image s.bank = true ∧ Sparse.wf (fun _ => Iface.reset) s.ifaces = true ∧
    Sparse.wf (fun _ => HostSide.idle) s.hosts = true ∧ Sparse.sorted s.inProgress = true := by
  simp [State.canonical, and_assoc]

theorem State.setIface_canonical {s : State} (h : s.canonical = true) (a : Nat) (f : Iface) :
    (s.setIface a f).canonical = true := by
  rw [State.canonical_iff] at h ⊢
  obtain ⟨hb, hi, hh, hp⟩ := h
  exact ⟨hb, Sparse.wf_set _ hi, hh, hp⟩

theorem State.setHost_canonical {s : State} (h : s.canonical = true) (a : Nat) (x : HostSide) :
    (s.setHost a x).canonical = true := by
  rw [State.canonical_iff] at h ⊢
  obtain ⟨hb, hi, hh, hp⟩ := h
  exact ⟨hb, hi, Sparse.wf_set _ hh, hp⟩

theorem State.enter_canonical {s : State} (h : s.canonical = true) (a : Nat) (w : Word) :
    (s.enter a w).canonical = true := by
  rw [State.canonical_iff] at h ⊢
  obtain ⟨hb, hi, hh, hp⟩ := h
  exact ⟨hb, hi, hh, Sparse.sorted_insert hp⟩

theorem State.leave_canonical {s : State} (h : s.canonical = true) (a : Nat) : (s.leave a).canonical = true := by
  rw [State.canonical_iff] at h ⊢
  obtain ⟨hb, hi, hh, hp⟩ := h
  exact ⟨hb, hi, hh, Sparse.sorted_erase hp⟩

theorem State.setAll_canonical {s : State} (h : s.canonical = true) (rs : List (Fin 6 × Nat)) :
    (s.setAll rs).canonical = true := by
  induction rs generalizing s with
  | nil => exact h
  | cons p rest ih => exact ih (State.setIface_canonical h _ _)

theorem BodyStep.canonical {s t : State} {evs : List Event} (h : BodyStep s t evs) (hs : s.canonical = true) :
    t.canonical = true := by
  rw [State.canonical_iff] at hs ⊢
  obtain ⟨hb, hi, hh, hp⟩ := hs
  obtain ⟨_, _, _, _, _, _, _, rfl, hk⟩ := h
  exact ⟨hk hb, hi, hh, hp⟩

theorem finishCommand_canonical {s : State} (h : s.canonical = true) (op : Byte) (e : ErrCode) :
    (finishCommand op e s).canonical = true :=
  State.leave_canonical (s := (s.setErr s.turn e).record _) (State.setIface_canonical h _ _) _

theorem exec_canonical {i : Instr} {s t : State} (hs : s.canonical = true) (h : exec i s = .next t) :
    t.canonical = true := by
  obtain ⟨_, ⟨_, rfl⟩ | ⟨_, ⟨e, v, evs, rs, hv, _, rfl⟩ | ⟨r, rfl⟩ | ⟨r, rfl⟩⟩⟩ := exec_cases h
  · exact finishCommand_canonical hs _ _
  · exact finishCommand_canonical (State.setAll_canonical (hv.canonical hs) rs) _ _
  · exact hs
  · exact hs

theorem takeLock_canonical {s : State} (h : s.canonical = true) (a : Nat) (c : CmdClass) :
    (takeLock a c s).canonical = true := by
  cases c <;> exact h

theorem startCommand_canonical {s : State} (h : s.canonical = true) (a : Nat) (w : Word) :
    (startCommand a w s).canonical = true := by
  rcases startCommand_cases a w s with ⟨_, e⟩ | ⟨_, e⟩
  · rw [e]; exact h
  · rw [e]
    exact takeLock_canonical (State.enter_canonical
      (s := (s.setIface a (s.iface a).cleared).record _) (State.setIface_canonical h _ _) _ _) _ _

theorem OwnChange.canonical {a : Nat} {s : State} {ifs : List (Nat × Iface)} {hs : List (Nat × HostSide)}
    (h : OwnChange a s ifs hs) (hc : s.canonical = true) :
    ({ s with ifaces := ifs, hosts := hs } : State).canonical = true := by
  rw [State.canonical_iff] at hc ⊢
  obtain ⟨hb, hi, hh, hp⟩ := hc
  exact ⟨hb, h.ifacesWf hi, h.hostsWf hh, hp⟩

theorem hostMove_canonical {s : State} (h : s.canonical = true) (a : Nat) : (hostMove a s).canonical = true := by
  cases hostMove_moves a s with
  | held ht => rw [ht]; exact h
  | started w p _ ht => rw [ht]; exact startCommand_canonical (State.setHost_canonical h _ _) a w
  | own ifs hs ho ht => rw [ht]; exact ho.canonical h
  | fault ifs hs ho r ht => rw [ht]; exact ho.canonical h

/-- A collapse puts the whole bank in the new image, so that the bank lists nothing (45 R185). -/
theorem powerCollapse_canonical {s : State} (h : s.canonical = true) : (powerCollapse s).canonical = true := by
  unfold powerCollapse
  split
  · obtain ⟨e, hd⟩ := s.drawImage_env
    rw [State.canonical_iff] at h
    obtain ⟨_, hi, hh, hp⟩ := h
    rw [hd, State.canonical_iff]
    exact ⟨rfl, hi, hh, hp⟩
  · exact h

theorem constructedFrom_canonical {s : State} (h : s.canonical = true) : (constructedFrom s).canonical = true := by
  rw [State.canonical_iff] at h ⊢
  obtain ⟨hb, _, hh, _⟩ := h
  exact ⟨hb, rfl, hh, rfl⟩

theorem construct_canonical {s : State} (h : s.canonical = true) : (construct s).canonical = true := by
  rcases construct_cases s with ⟨_, e⟩ | ⟨_, ⟨_, e⟩ | ⟨env, e | e | e⟩⟩ <;> rw [e]
  · exact h
  · exact h
  · exact constructedFrom_canonical (s := { s with env := env }) h
  · exact State.setIface_canonical (s := { s with env := env }) h _ _
  · exact State.setIface_canonical (s := { s with env := env }) h _ _

/-- Settles O58: each move of a step is an operation that keeps the lists canonical. -/
theorem stepKeepsCanonical : Obligations.StepKeepsCanonical := by
  intro s t hs h
  have hr : ∀ rest, (s.withSchedule rest).canonical = true := fun _ => hs
  cases step_moves h with
  | idle _ ht => exact ht ▸ hs
  | skip _ rest _ ht => exact ht ▸ hr rest
  | finish a _ _ rest _ _ _ _ ht => exact exec_canonical (s := (s.withSchedule rest).withTurn a) hs ht
  | illegal a _ rest _ _ _ _ ht =>
    exact ht ▸ finishCommand_canonical (s := (s.withSchedule rest).withTurn a) hs _ _
  | host a rest _ _ _ ht => exact ht ▸ hostMove_canonical (hr rest) a
  | collapse rest _ ht => exact ht ▸ powerCollapse_canonical (hr rest)
  | construct rest _ ht => exact ht ▸ construct_canonical (hr rest)

/-! ### Matched mux locks -/

/-- A lock is held by exactly the agent whose word in progress is of class `c`: one half of `LocksMatch`. -/
def LockMatches (l : Lock) (c : CmdClass) (ip : List (Nat × Word)) : Prop :=
  ∀ a, l = .held a ↔ ∃ w, Sparse.find? ip a = some w ∧ classOfWord w = c

theorem locksMatch_iff {s : State} : LocksMatch s ↔
    LockMatches s.postdivLock .postdivMux s.inProgress ∧ LockMatches s.gpdivLock .gpdivMux s.inProgress :=
  Iff.rfl

theorem lockMatches_free_nil (c : CmdClass) : LockMatches .free c [] := by
  simp [LockMatches, Sparse.find?]

theorem Lock.releaseBy_eq_held {a b : Nat} {l : Lock} : l.releaseBy a = .held b ↔ l = .held b ∧ b ≠ a := by
  unfold Lock.releaseBy
  split
  · subst l; simp [eq_comm]
  · rename_i h
    exact ⟨fun hb => ⟨hb, fun hab => h (hab ▸ hb)⟩, And.left⟩

/-- An agent that leaves frees the lock its command took and no other (20 R59). -/
theorem LockMatches.release {l : Lock} {c : CmdClass} {ip : List (Nat × Word)} (h : LockMatches l c ip) (a : Nat) :
    LockMatches (l.releaseBy a) c (Sparse.erase a ip) := by
  intro b
  rw [Lock.releaseBy_eq_held]
  by_cases hb : b = a
  · subst hb; simp [Sparse.find?_erase_same]
  · simp [Sparse.find?_erase_other hb, hb, h b]

/-- A command of another class enters: the lock's holder stays. -/
theorem LockMatches.insert_other {l : Lock} {c : CmdClass} {ip : List (Nat × Word)} (h : LockMatches l c ip) {a : Nat}
    {w : Word} (ha : Sparse.find? ip a = none) (hw : classOfWord w ≠ c) : LockMatches l c (Sparse.insert a w ip) := by
  intro b
  by_cases hb : b = a
  · subst hb; simp [Sparse.find?_insert_same, hw, h b, ha]
  · rw [Sparse.find?_insert_other hb, h b]

/-- A command of the lock's class enters while no other agent holds the lock: the entering agent holds it. -/
theorem LockMatches.insert_take {l : Lock} {c : CmdClass} {ip : List (Nat × Word)} (h : LockMatches l c ip) {a : Nat}
    {w : Word} (hw : classOfWord w = c) (hl : l.heldByOther a = false) :
    LockMatches (.held a) c (Sparse.insert a w ip) := by
  intro b
  by_cases hb : b = a
  · subst hb; simp [Sparse.find?_insert_same, hw]
  · have hn : l ≠ .held b := by rintro rfl; simp [Lock.heldByOther, hb] at hl
    rw [Sparse.find?_insert_other hb, ← h b]
    simp [hn, Ne.symm hb]

theorem LocksMatch.of_inProgress_nil {s : State} (hp : s.postdivLock = .free) (hg : s.gpdivLock = .free)
    (hi : s.inProgress = []) : LocksMatch s := by
  rw [locksMatch_iff, hp, hg, hi]
  exact ⟨lockMatches_free_nil _, lockMatches_free_nil _⟩

theorem LocksMatch.congr {s t : State} (h : LocksMatch s) (hp : t.postdivLock = s.postdivLock)
    (hg : t.gpdivLock = s.gpdivLock) (hi : t.inProgress = s.inProgress) : LocksMatch t := by
  rw [locksMatch_iff, hp, hg, hi]
  exact h

theorem LocksMatch.finishCommand {s : State} (h : LocksMatch s) (op : Byte) (e : ErrCode) :
    LocksMatch (finishCommand op e s) :=
  ⟨LockMatches.release h.1 s.turn, LockMatches.release h.2 s.turn⟩

theorem LocksMatch.exec {i : Instr} {s t : State} (hs : LocksMatch s) (h : exec i s = .next t) : LocksMatch t := by
  obtain ⟨_, ⟨_, rfl⟩ | ⟨_, ⟨e, v, evs, rs, hv, _, rfl⟩ | ⟨r, rfl⟩ | ⟨r, rfl⟩⟩⟩ := exec_cases h
  · exact hs.finishCommand _ _
  · refine LocksMatch.finishCommand ?_ _ _
    rw [v.setAll_eq rs]
    exact hs.congr hv.postdivLock hv.gpdivLock hv.inProgress
  · exact hs
  · exact hs

/-- A start that does not hold enters the set with its lock (20 R58, R59). -/
theorem LocksMatch.startCommand {s : State} (hs : LocksMatch s) {a : Nat} {w : Word}
    (ha : Sparse.find? s.inProgress a = none) (hm : mustHold a w s = false) : LocksMatch (startCommand a w s) := by
  rcases startCommand_cases a w s with ⟨_, e⟩ | ⟨_, e⟩
  · rw [e]; exact hs
  · rw [e]
    obtain ⟨hp, hg⟩ := locksMatch_iff.mp hs
    unfold mustHold at hm
    cases hc : classOfWord w with
    | pure => exact ⟨hp.insert_other ha (by simp [hc]), hg.insert_other ha (by simp [hc])⟩
    | other => exact ⟨hp.insert_other ha (by simp [hc]), hg.insert_other ha (by simp [hc])⟩
    | postdivMux =>
      simp only [hc, Bool.or_eq_false_iff] at hm
      exact ⟨hp.insert_take hc hm.1, hg.insert_other ha (by simp [hc])⟩
    | gpdivMux =>
      simp only [hc, Bool.or_eq_false_iff] at hm
      exact ⟨hp.insert_other ha (by simp [hc]), hg.insert_take hc hm.1⟩

theorem LocksMatch.hostMove {s : State} (hs : LocksMatch s) {a : Nat} (ha : Sparse.find? s.inProgress a = none) :
    LocksMatch (hostMove a s) := by
  cases hostMove_moves a s with
  | held ht => rw [ht]; exact hs
  | started w p hm ht => rw [ht]; exact LocksMatch.startCommand (s := s.setProgram a p) hs ha hm
  | own ifs hs' _ ht => rw [ht]; exact hs
  | fault ifs hs' _ r ht => rw [ht]; exact hs

theorem LocksMatch.powerCollapse {s : State} (hs : LocksMatch s) : LocksMatch (powerCollapse s) := by
  unfold Machine.powerCollapse
  split
  · obtain ⟨e, hd⟩ := s.drawImage_env
    rw [hd]; exact hs
  · exact hs

theorem LocksMatch.construct {s : State} (hs : LocksMatch s) : LocksMatch (construct s) := by
  rcases construct_cases s with ⟨_, e⟩ | ⟨_, ⟨_, e⟩ | ⟨env, e | e | e⟩⟩ <;> rw [e]
  · exact hs
  · exact hs
  · exact LocksMatch.of_inProgress_nil rfl rfl rfl
  · exact hs
  · exact hs

theorem step_locksMatch {s t : State} (hs : LocksMatch s) (h : step s = .next t) : LocksMatch t := by
  cases step_moves h with
  | idle _ ht => exact ht ▸ hs
  | skip _ _ _ ht => rw [ht]; exact hs
  | finish a _ _ rest _ _ _ _ ht => exact LocksMatch.exec (s := (s.withSchedule rest).withTurn a) hs ht
  | illegal a _ rest _ _ _ _ ht =>
    rw [ht]; exact LocksMatch.finishCommand (s := (s.withSchedule rest).withTurn a) hs _ _
  | host a rest _ _ hw ht => rw [ht]; exact LocksMatch.hostMove (s := s.withSchedule rest) hs hw
  | collapse rest _ ht => rw [ht]; exact LocksMatch.powerCollapse (s := s.withSchedule rest) hs
  | construct rest _ ht => rw [ht]; exact LocksMatch.construct (s := s.withSchedule rest) hs

/-! ### Agents await construction -/

/-- Where construction has ended and stays so, nothing is asked. -/
theorem AgentsAwaitConstruction.of_started {s t : State} (hs : s.started = true)
    (h : t.constructed = s.constructed ∧ t.constructFailed = s.constructFailed) : AgentsAwaitConstruction t := by
  intro hf
  rw [State.started, h.1, h.2] at hf
  exact Bool.noConfusion (hs.symm.trans hf)

theorem AgentsAwaitConstruction.construct {s : State} (hs : AgentsAwaitConstruction s) :
    AgentsAwaitConstruction (construct s) := by
  rcases construct_cases s with ⟨_, e⟩ | ⟨_, ⟨_, e⟩ | ⟨env, e | e | e⟩⟩ <;> rw [e]
  · exact hs
  · exact hs
  · exact fun _ => rfl
  · exact fun h => by simp [State.started] at h
  · exact fun h => by simp [State.started] at h

/-- Agents move only once construction has ended, and no move but construction changes whether it has (60 R212). -/
theorem step_agentsAwaitConstruction {s t : State} (hs : AgentsAwaitConstruction s) (h : step s = .next t) :
    AgentsAwaitConstruction t := by
  cases step_moves h with
  | idle _ ht => exact ht ▸ hs
  | skip _ _ _ ht => rw [ht]; exact hs
  | finish a _ _ rest _ hst _ _ ht =>
    exact .of_started (s := (s.withSchedule rest).withTurn a) hst (exec_started ht)
  | illegal a _ rest _ hst _ _ ht =>
    rw [ht]
    exact .of_started (s := (s.withSchedule rest).withTurn a) hst
      ⟨finishCommand_constructed _ _ _, finishCommand_constructFailed _ _ _⟩
  | host a rest _ hst _ ht =>
    rw [ht]
    exact .of_started (s := s.withSchedule rest) hst (hostMove_started a _)
  | collapse rest _ ht =>
    obtain ⟨hi, hc, hf⟩ := powerCollapse_keeps (s.withSchedule rest)
    rw [ht]
    unfold AgentsAwaitConstruction State.started
    rw [hi, hc, hf]
    exact hs
  | construct rest _ ht => rw [ht]; exact AgentsAwaitConstruction.construct (s := s.withSchedule rest) hs

/-- Settles O59: a start takes the lock nobody else holds, completion frees it, and no other move touches it. -/
theorem stepKeepsLocksMatched : Obligations.StepKeepsLocksMatched :=
  fun _ _ h => ⟨fun hs => step_locksMatch hs h, fun hs => step_agentsAwaitConstruction hs h⟩

/-- Settles O60: nothing is listed at reset or at launch, and both locks are free. -/
theorem resetMeetsInvariants : Obligations.ResetMeetsInvariants :=
  ⟨rfl, .of_inProgress_nil rfl rfl rfl, fun _ => rfl, rfl, .of_inProgress_nil rfl rfl rfl, fun _ => rfl⟩

end Sys2Proof.Machine

/-! PROOFS. The host at its interface (10 R21 to R23, 70 R231). -/

namespace Sys2Proof.Machine

/-! ### What a host's operation leaves -/

/-- Once construction has ended, an agent with no command in progress makes its host's next operation (20 R57). -/
theorem step_hostOp {s : State} {a : Nat} {op : HostOp} {ops : List HostOp} {rest : List Turn} (hf : s.fault = none)
    (hr : s.refused = none) (hst : s.started = true) (hs : s.schedule = .agent a :: rest)
    (ha : agentExists s.cfg a = true) (hi : Sparse.find? s.inProgress a = none) (hp : (s.host a).program = op :: ops) :
    step s = .next (hostOp a op ops (s.withSchedule rest)) := by
  have hm : hostMove a (s.withSchedule rest) = hostOp a op ops (s.withSchedule rest) := by
    unfold hostMove
    rw [show (s.withSchedule rest).host a = s.host a from rfl, hp]
  rw [step_eq hf hr, ← hm]
  simp [nextMove, hs, hst, ha, agentMove, hi, State.withSchedule]

theorem HostGets.setProgram (a : Nat) (ops : List HostOp) (s : State) : HostGets a ops [] s (s.setProgram a ops) :=
  ⟨by simp [State.setProgram], fun _ hb => State.host_setHost_other hb _ _⟩

theorem HostGets.deliver {a : Nat} {ops : List HostOp} {vs : List DWord} {s t : State} (h : HostGets a ops vs s t)
    (v : DWord) : HostGets a ops (vs ++ [v]) s (t.deliver a v) := by
  obtain ⟨ha, hb⟩ := h
  exact ⟨by simp [State.deliver, ha], fun b hne => (State.host_setHost_other hne _ _).trans (hb b hne)⟩

theorem ArgWritten.setIface {s t : State} (h : t.ifaces = s.ifaces) (a : Nat) (k : ArgReg) (v : DWord) :
    ArgWritten a k v s (t.setIface a ((t.iface a).withArg k v)) := by
  refine ⟨?_, fun b hb => (State.iface_setIface_other hb _ _).trans (State.iface_congr h b)⟩
  rw [State.iface_setIface_same, State.iface_congr h]
  cases k <;> rfl

theorem readResult_valid {a : Nat} {n : Fin 6} {use : DWord → State → State} {s : State}
    (h : (s.iface a).resv[n.val] = true) :
    readResult a n use s = use (s.iface a).res[n.val] (s.deliver a (s.iface a).res[n.val]) := by
  simp [readResult, Iface.readRes, h]

theorem readResult_invalid {a : Nat} {n : Fin 6} {use : DWord → State → State} {s : State}
    (h : (s.iface a).resv[n.val] = false) : readResult a n use s = s.raiseFault .resultUnwritten := by
  simp [readResult, Iface.readRes, h]

/-- Settles O10: each operation is the program moving on, then a value delivered, an argument written or a mark. -/
theorem hostReadsResults : Obligations.HostReadsResults := by
  intro s a n k ops rest hf hr hst hs ha hi
  have hstep {op : HostOp} (hp : (s.host a).program = op :: ops) :
      step s = .next (hostOp a op ops (s.withSchedule rest)) := step_hostOp hf hr hst hs ha hi hp
  have hgo : HostGets a ops [] s ((s.withSchedule rest).setProgram a ops) := HostGets.setProgram a ops _
  refine ⟨fun hp hv => ?_, fun hp hv => ?_, fun hp hv => ?_, fun v hp => ?_, fun hp => ?_, fun hp => ?_,
    fun w hp he => ?_⟩
  · refine ⟨_, hstep hp, ?_⟩
    rw [hostOp, readResult_valid (s := (s.withSchedule rest).setProgram a ops) hv]
    exact ⟨hgo.deliver _, rfl⟩
  · refine ⟨_, hstep hp, ?_⟩
    rw [hostOp, readResult_valid (s := (s.withSchedule rest).setProgram a ops) hv]
    refine ⟨hgo.deliver _, ?_, rfl⟩
    exact ArgWritten.setIface (t := ((s.withSchedule rest).setProgram a ops).deliver a _) rfl a k _
  · refine ⟨((s.withSchedule rest).setProgram a ops).raiseFault .resultUnwritten, ?_, hgo, rfl⟩
    rcases hp with hp | hp <;>
      rw [hstep hp, hostOp, readResult_invalid (s := (s.withSchedule rest).setProgram a ops) hv]
  · exact ⟨_, hstep hp, hgo, ArgWritten.setIface (t := (s.withSchedule rest).setProgram a ops) rfl a k v, rfl⟩
  · exact ⟨_, hstep hp, hgo.deliver _, rfl⟩
  · exact ⟨_, hstep hp, hgo.deliver _, rfl⟩
  · refine ⟨_, hstep hp, ?_⟩
    rw [hostOp, if_neg (show ((s.withSchedule rest).iface a).err ≠ 0 from he)]
    exact ⟨hgo, rfl⟩

end Sys2Proof.Machine


/-! PROOFS. What a command can change (10 R18 to R34) and the values at reset (10 R42). -/

namespace Sys2Proof.Machine

/-! ### Arguments -/

/-- A completion's report leaves both arguments of every agent (10 R21). -/
theorem Reports.args {e : ErrCode} {rs : List (Fin 6 × Nat)} {s t : State} (h : Reports e rs s t) (a : Nat) :
    (t.iface a).arg0 = (s.iface a).arg0 ∧ (t.iface a).arg1 = (s.iface a).arg1 := by
  obtain ⟨hother, h0, h1, _⟩ := h
  by_cases ha : a = s.turn
  · exact ha ▸ ⟨h0, h1⟩
  · rw [hother a ha]
    exact ⟨rfl, rfl⟩

/-- The completion of a command that does nothing (10 R33). -/
theorem finishCommand_ends (op : Byte) (e : ErrCode) (s : State) : Ends op e [] [] s (finishCommand op e s) :=
  (BodyStep.refl s).ends (rs := []) (by simp)

/-- Settles O12: a command ends with a report, which names no argument, or with a mark. -/
theorem commandsOnlyReadArguments : Obligations.CommandsOnlyReadArguments := by
  intro i s t h a
  obtain ⟨_, ⟨_, rfl⟩ | ⟨_, ⟨e, v, evs, rs, hv, nd, rfl⟩ | ⟨r, rfl⟩ | ⟨r, rfl⟩⟩⟩ := exec_cases h
  · obtain ⟨_, _, hr, _⟩ := finishCommand_ends (opcode i) .deviceAbsent s
    exact hr.args a
  · obtain ⟨_, _, hr, _⟩ := hv.ends (op := opcode i) (e := e) nd
    exact hr.args a
  · exact ⟨rfl, rfl⟩
  · exact ⟨rfl, rfl⟩

/-! ### A block that runs no body -/

theorem exec_absent {s : State} (hf : s.fault = none) (hr : s.refused = none) (hc : s.constructed = false) (i : Instr) :
    exec i s = .next (finishCommand (opcode i) .deviceAbsent s) := by
  simp [exec_eq, runCommand, State.stuck?_eq_none.mpr ⟨hf, hr⟩, hc]

/-- Settles O14: a block that is not constructed completes each command without its body. -/
theorem deviceAbsentBeforeConstruction : Obligations.DeviceAbsentBeforeConstruction := fun i s hf hr hc =>
  ⟨_, exec_absent hf hr hc i, finishCommand_ends _ _ s, finished_untouched _ _ [] s⟩

/-- A marked block answers its mark to a step and to every command (10 R34, 60 R200). -/
theorem stuck_answers {s : State} {o : Result} (h : s.stuck? = some o) : step s = o ∧ ∀ i, exec i s = o :=
  ⟨by simp [step, h], fun i => by simp [exec_eq, runCommand, h]⟩

/-- Settles O8: the fault mark is looked at first, the refused mark after it. -/
theorem stuckBlockRunsNothing : Obligations.StuckBlockRunsNothing :=
  ⟨fun _ _ hf => stuck_answers (by simp [State.stuck?, hf]),
    fun _ _ hf hr => stuck_answers (by simp [State.stuck?, hf, hr])⟩

/-! ### Reset -/

/-- No interface is listed at reset (10 R42). -/
theorem reset_iface (a : Nat) : State.reset.iface a = Iface.reset := rfl

/-- Settles O16: the fields are as written, and every interface is the one at construction. -/
theorem resetLeavesStatedValues : Obligations.ResetLeavesStatedValues := by
  refine ⟨rfl, rfl, rfl, rfl, rfl, rfl, rfl, rfl, rfl, rfl, rfl, fun a => ?_⟩
  rw [reset_iface]
  exact ⟨rfl, rfl, rfl, by decide⟩

/-! ### The runtime state and the cache -/

theorem lockPoll_sameButLocked (s : State) : SameButLocked s (lockPoll s).2 := by
  obtain ⟨vs, env, h, _⟩ := lockPollFrom_spec Config.lockPollAttempts s
  rw [lockPoll, h]
  exact ⟨rfl, rfl, rfl, rfl⟩

theorem SameRuntime.refl (s : State) : SameRuntime s s := ⟨rfl, rfl, rfl, rfl, rfl⟩

theorem SameRuntime.butLocked {s t : State} (h : SameRuntime s t) : SameButLocked s t := by
  obtain ⟨hp, _, hr, hc, hk⟩ := h
  exact ⟨hp, hr, hc, hk⟩

theorem SameButLocked.trans {s t u : State} (h : SameButLocked s t) (h' : SameButLocked t u) : SameButLocked s u := by
  obtain ⟨hp, hr, hc, hk⟩ := h
  obtain ⟨hp', hr', hc', hk'⟩ := h'
  exact ⟨hp'.trans hp, hr'.trans hr, hc'.trans hc, hk'.trans hk⟩

theorem BankStep.sameButLocked {s t : State} (h : BankStep s t) : SameButLocked s t := h.sameRuntime.butLocked

theorem State.setAll_sameRuntime (rs : List (Fin 6 × Nat)) (s : State) : SameRuntime s (s.setAll rs) := by
  rw [s.setAll_eq]
  exact ⟨rfl, rfl, rfl, rfl, rfl⟩

/-- Bank operations and results alone leave the runtime state and the cache. -/
theorem BankStep.sameRuntime_of_setAll {s v : State} (h : BankStep s v) (rs : List (Fin 6 × Nat)) :
    SameRuntime s (v.setAll rs) :=
  h.sameRuntime.trans (v.setAll_sameRuntime rs)

theorem relock_sameButLocked (s : State) : SameButLocked s (relock s).2 := by
  have hp : SameButLocked s (lockPoll (runOps (overrideOps s.cfg ++ toggleOps s.cfg) s)).2 :=
    (runOps_bankStep _ s).sameButLocked.trans (lockPoll_sameButLocked _)
  unfold relock
  dsimp only
  split
  · exact hp.trans (runOps_bankStep _ _).sameButLocked
  · exact hp

/-- The runtime state but for `powered_on` and `locked`, and the cache, are as they were. -/
def SameButPower (s t : State) : Prop :=
  t.currentVcoRate = s.currentVcoRate ∧ t.cache = s.cache ∧ t.cacheStatus = s.cacheStatus

theorem SameButLocked.butPower {s t : State} (h : SameButLocked s t) : SameButPower s t := by
  obtain ⟨_, hr, hc, hk⟩ := h
  exact ⟨hr, hc, hk⟩

theorem SameButPower.trans {s t u : State} (h : SameButPower s t) (h' : SameButPower t u) : SameButPower s u := by
  obtain ⟨hr, hc, hk⟩ := h
  obtain ⟨hr', hc', hk'⟩ := h'
  exact ⟨hr'.trans hr, hc'.trans hc, hk'.trans hk⟩

theorem State.setLocked_sameButLocked (b : Bool) (s : State) : SameButLocked s (s.setLocked b) := ⟨rfl, rfl, rfl, rfl⟩

theorem State.setPoweredOn_sameButPower (b : Bool) (s : State) : SameButPower s (s.setPoweredOn b) := ⟨rfl, rfl, rfl⟩

theorem toggleAndPoll_sameButPower (s : State) : SameButPower s (toggleAndPoll s).2 := by
  have hp : SameButPower s (lockPoll (runOps (toggleOps s.cfg) s)).2 :=
    ((runOps_bankStep _ s).sameButLocked.trans (lockPoll_sameButLocked _)).butPower
  unfold toggleAndPoll
  dsimp only
  split
  · exact hp.trans (State.setPoweredOn_sameButPower true _)
  · exact hp

theorem prepareOff_sameButPower (s : State) : SameButPower s (prepareOff s).2 := by
  have hr := (s.fieldRead_bankStep (s.cfg.fd .running)).sameButLocked
  unfold prepareOff
  dsimp only
  split
  · have hl := (hr.trans (relock_sameButLocked _)).butPower
    split
    · exact hl.trans (toggleAndPoll_sameButPower _)
    · exact hl
  · exact hr.butPower.trans (toggleAndPoll_sameButPower _)

theorem captureBytes_bankStep (s : State) : BankStep s (captureBytes s).2 :=
  (((s.regRead_bankStep .vcoCntrl).trans (State.regRead_bankStep .cpBias _)).trans
    (State.regRead_bankStep .pllCntrl _)).trans (State.regRead_bankStep .pixdiv _)

theorem captureRate_sameButLocked (s : State) : SameButLocked s (captureRate s).2 := by
  unfold captureRate
  dsimp only
  split
  · exact (lockPoll_sameButLocked s).trans (recalcRate_bankStep _).sameButLocked
  · exact lockPoll_sameButLocked s

/-- SAVE writes the cache and its status, and its poll `locked` (45 R181). -/
theorem saved_runtime (s : State) : (saved s).poweredOn = s.poweredOn ∧
    (saved s).currentVcoRate = s.currentVcoRate ∧ (saved s).cacheStatus = .valid := by
  obtain ⟨hp, hr, _⟩ := (captureBytes_bankStep s).sameButLocked.trans (captureRate_sameButLocked _)
  simp only [saved, State.setCacheStatus_poweredOn, State.setCache_poweredOn, State.setCacheStatus_currentVcoRate,
    State.setCache_currentVcoRate, State.setCacheStatus_cacheStatus]
  exact ⟨hp, hr, trivial⟩

/-- The rate transaction writes `current_vco_rate` and `locked`, and nothing of the cache (43 R154). -/
theorem rateTransaction_runtime (t : Nat) (s : State) : (rateTransaction t s).poweredOn = s.poweredOn ∧
    (rateTransaction t s).cache = s.cache ∧ (rateTransaction t s).cacheStatus = s.cacheStatus := by
  obtain ⟨hp, _, hc, hk⟩ :=
    ((underPostdivLock_bankStep postDivDecode_bankStep s).trans
      (runOps_bankStep (rateOps s.cfg (planFor s.cfg t (underPostdivLock postDivDecode s).1.1) (sscCompute t))
        _)).sameButLocked
  rw [rateTransaction_eq]
  simp only [State.setLocked_poweredOn, State.setVcoRate_poweredOn, State.setLocked_cache, State.setVcoRate_cache,
    State.setLocked_cacheStatus, State.setVcoRate_cacheStatus]
  exact ⟨hp, hc, hk⟩

/-- RESTORE's run writes what the rate transaction does, and the status only to CONSUMED (45 R182). -/
theorem restoreRun_runtime (c : Cache) (s : State) : (restoreRun c s).2.poweredOn = s.poweredOn ∧
    (restoreRun c s).2.cache = s.cache ∧
    ((restoreRun c s).2.cacheStatus = s.cacheStatus ∨ (restoreRun c s).2.cacheStatus = .consumed) := by
  obtain ⟨hp, hc, hk⟩ := rateTransaction_runtime c.rate.toNat s
  obtain ⟨dp, _, dc, dk⟩ := ((rateTransaction c.rate.toNat s).drawRestore_bankStep).sameButLocked
  unfold restoreRun
  dsimp only
  split
  · obtain ⟨op, _, oc, _⟩ := (runOps_bankStep (restoreOps c)
      (rateTransaction c.rate.toNat s).drawRestore.2).sameButLocked
    exact ⟨(State.setCacheStatus_poweredOn _ _).trans (op.trans (dp.trans hp)),
      (State.setCacheStatus_cache _ _).trans (oc.trans (dc.trans hc)), .inr rfl⟩
  · exact ⟨dp.trans hp, dc.trans hc, .inl (dk.trans hk)⟩

/-- The changes of the runtime state and the cache that a command may make (44 R170). -/
structure RuntimeWrites (i : Instr) (s t : State) : Prop where
  poweredOn : t.poweredOn ≠ s.poweredOn →
    (i = .prepare ∧ s.poweredOn = false) ∨ (i = .unprepare ∧ s.poweredOn = true)
  locked : t.locked ≠ s.locked → i ∈ [Instr.setRate, .prepare, .unprepare, .isEnabled, .save, .restore]
  currentVcoRate : t.currentVcoRate ≠ s.currentVcoRate → i ∈ [Instr.setRate, .restore]
  cache : t.cache ≠ s.cache → i = .save
  cacheStatus : t.cacheStatus ≠ s.cacheStatus →
    (i = .save ∧ t.cacheStatus = .valid) ∨ (i = .restore ∧ t.cacheStatus = .consumed)

theorem SameRuntime.writes {s t : State} (h : SameRuntime s t) (i : Instr) : RuntimeWrites i s t := by
  obtain ⟨hp, hl, hr, hc, hk⟩ := h
  exact ⟨absurd hp, absurd hl, absurd hr, absurd hc, absurd hk⟩

theorem SameButLocked.writes {s t : State} (h : SameButLocked s t) {i : Instr}
    (hi : i ∈ [Instr.setRate, .prepare, .unprepare, .isEnabled, .save, .restore]) : RuntimeWrites i s t := by
  obtain ⟨hp, hr, hc, hk⟩ := h
  exact ⟨absurd hp, fun _ => hi, absurd hr, absurd hc, absurd hk⟩

theorem prepareBody_writes (s : State) : RuntimeWrites .prepare s (prepareBody s).2 := by
  unfold prepareBody
  split
  · exact (SameRuntime.refl s).writes _
  · rename_i hoff
    obtain ⟨hr, hc, hk⟩ := prepareOff_sameButPower s
    exact ⟨fun _ => .inl ⟨rfl, by simpa using hoff⟩, fun _ => by decide, absurd hr, absurd hc, absurd hk⟩

theorem unprepareBody_writes (s : State) : RuntimeWrites .unprepare s (unprepareBody s) := by
  unfold unprepareBody
  split
  · rename_i hon
    obtain ⟨hr, hc, hk⟩ := ((runOps_bankStep (unprepareOps s.cfg) s).sameButLocked.butPower.trans
      (State.setPoweredOn_sameButPower false _)).trans (State.setLocked_sameButLocked false _).butPower
    exact ⟨fun _ => .inr ⟨rfl, hon⟩, fun _ => by decide, absurd hr, absurd hc, absurd hk⟩
  · exact (SameRuntime.refl s).writes _

theorem setRate_writes {s u : State} {e : ErrCode} (h : bodyOf .setRate s = .completes e u) :
    RuntimeWrites .setRate s u := by
  simp only [bodyOf] at h
  split at h <;> cases h
  obtain ⟨hp, hc, hk⟩ := rateTransaction_runtime s.arg0 s
  exact ⟨absurd hp, fun _ => by decide, fun _ => by decide, absurd hc, absurd hk⟩

theorem isEnabled_writes {s u : State} {e : ErrCode} (h : bodyOf .isEnabled s = .completes e u) :
    RuntimeWrites .isEnabled s u := by
  cases h
  have hr : SameRuntime (lockPoll s).2 ((lockPoll s).2.setRes 0 (if (lockPoll s).1 then 1 else 0)) :=
    State.setAll_sameRuntime [(0, _)] _
  exact ((lockPoll_sameButLocked s).trans hr.butLocked).writes (by decide)

theorem save_writes {s u : State} {e : ErrCode} (h : bodyOf .save s = .completes e u) : RuntimeWrites .save s u := by
  obtain ⟨hp, hr, hk⟩ := saved_runtime s
  obtain ⟨rp, _, rr, _, rk⟩ := (saved s).setAll_sameRuntime [(0, (captureRate (captureBytes s).2).1)]
  simp only [bodyOf, saveBody_eq] at h
  cases h
  exact ⟨absurd (rp.trans hp), fun _ => by decide, absurd (rr.trans hr), fun _ => rfl,
    fun _ => .inl ⟨rfl, rk.trans hk⟩⟩

theorem restore_writes {s u : State} {e : ErrCode} (h : bodyOf .restore s = .completes e u) :
    RuntimeWrites .restore s u := by
  simp only [bodyOf, restoreBody] at h
  split at h
  · cases h
  · split at h <;> cases h
    obtain ⟨hp, hc, hk⟩ := restoreRun_runtime s.cache s
    exact ⟨absurd hp, fun _ => by decide, fun _ => by decide, absurd hc, fun hne => .inr ⟨rfl, hk.resolve_left hne⟩⟩

theorem enableBody_bankStep (s : State) : BankStep s (enableBody s) := by
  unfold enableBody
  split
  · exact runOps_bankStep _ s
  · exact BankStep.refl s

theorem postdivSelect_bankStep (i : Fin 6) (s : State) : BankStep s (postdivSelect i s) :=
  (recalcRate_bankStep s).trans (runOps_bankStep _ _)

/-- A command outside the six that write `locked` completes with bank operations and results alone (44 R170). -/
theorem bodyOf_bankStep {i : Instr} {s u : State} {e : ErrCode}
    (hi : i ∉ [Instr.setRate, .prepare, .unprepare, .isEnabled, .save, .restore])
    (h : bodyOf i s = .completes e u) : ∃ v rs, BankStep s v ∧ u = v.setAll rs := by
  cases i with
  | setRate => exact absurd (by decide) hi
  | prepare => exact absurd (by decide) hi
  | unprepare => exact absurd (by decide) hi
  | isEnabled => exact absurd (by decide) hi
  | save => exact absurd (by decide) hi
  | restore => exact absurd (by decide) hi
  | multX100 => cases h; exact ⟨s, [(0, _), (1, _)], .refl s, rfl⟩
  | gcd => cases h; exact ⟨s, [(0, _)], .refl s, rfl⟩
  | plan =>
    simp only [bodyOf, planBody] at h
    split at h <;> cases h
    · exact ⟨s, [], .refl s, rfl⟩
    · exact ⟨s, _, .refl s, State.setPlan_eq _ s⟩
  | sscCompute =>
    simp only [bodyOf] at h
    split at h <;> cases h
    exact ⟨s, _, .refl s, State.setSsc_eq _ s⟩
  | roundRate => cases h; exact ⟨s, [(0, _)], .refl s, rfl⟩
  | recalcRate => cases h; exact ⟨_, [(0, _)], recalcRate_bankStep s, rfl⟩
  | enable => cases h; exact ⟨_, [], enableBody_bankStep s, rfl⟩
  | postdivSet =>
    simp only [bodyOf, postdivSetBody] at h
    split at h <;> cases h
    · exact ⟨_, [], postdivSelect_bankStep _ s, rfl⟩
    · exact ⟨s, [], .refl s, rfl⟩
  | postdivGet => cases h; exact ⟨_, _, postDivDecode_bankStep s, postdivGetBody_eq s⟩
  | gpdivSet =>
    simp only [bodyOf, gpdivSetBody] at h
    split at h <;> cases h
    · exact ⟨s, [], .refl s, rfl⟩
    · exact ⟨_, [], s.fieldWrite_bankStep (s.cfg.fd .gpdiv) s.arg0, rfl⟩
  | gpdivGet => cases h; exact ⟨_, [(0, _)], s.fieldRead_bankStep _, rfl⟩
  | pixdivRoundRate => cases h; exact ⟨s, [(0, _), (1, _)], .refl s, rfl⟩
  | pixdivSetRate => cases h; exact ⟨_, _, s.fieldWrite_bankStep _ _, pixdivSetBody_eq s⟩
  | pixdivRecalcRate => cases h; exact ⟨_, [(0, _)], s.fieldRead_bankStep _, rfl⟩

/-- What a body that completes has written of the runtime state and the cache. -/
theorem bodyOf_writes {i : Instr} {s u : State} {e : ErrCode} (h : bodyOf i s = .completes e u) :
    RuntimeWrites i s u := by
  by_cases hi : i ∈ [Instr.setRate, .prepare, .unprepare, .isEnabled, .save, .restore]
  · simp only [List.mem_cons, List.not_mem_nil, or_false] at hi
    rcases hi with rfl | rfl | rfl | rfl | rfl | rfl
    · exact setRate_writes h
    · cases h
      exact prepareBody_writes s
    · cases h
      exact unprepareBody_writes s
    · exact isEnabled_writes h
    · exact save_writes h
    · exact restore_writes h
  · obtain ⟨v, rs, hv, rfl⟩ := bodyOf_bankStep hi h
    exact (hv.sameRuntime_of_setAll rs).writes i

/-- What a command has written of the runtime state and the cache: its body's writes, or nothing. -/
theorem exec_writes {i : Instr} {s t : State} (h : exec i s = .next t) : RuntimeWrites i s t := by
  have none_written : SameRuntime s t → RuntimeWrites i s t := fun hr => hr.writes i
  rw [exec_eq] at h
  obtain ⟨_, ⟨_, rfl⟩ | ⟨_, ⟨e, u, hu, rfl⟩ | ⟨r, _, rfl⟩ | ⟨r, _, rfl⟩⟩⟩ := runCommand_cases h
  · exact none_written (SameRuntime.refl s)
  · obtain ⟨hp, hl, hr, hc, hk⟩ := bodyOf_writes hu
    exact ⟨hp, hl, hr, hc, hk⟩
  · exact none_written (SameRuntime.refl s)
  · exact none_written (SameRuntime.refl s)

/-- Settles O19, from what each command's body writes. -/
theorem runtimeStateWriters : Obligations.RuntimeStateWriters := by
  intro i s t h
  obtain ⟨hp, hl, hr, hc, hk⟩ := exec_writes h
  exact ⟨hp, hl, hr, hc, hk, exec_started h⟩

end Sys2Proof.Machine

/-! PROOFS. The bank and its fields: a field write, and what a read of a volatile field draws (20 R45 to R47). -/

namespace Sys2Proof.Machine

/-! ### A field write -/

/-- A merge keeps every bit outside its field (20 R47). -/
theorem FieldDesc.getLsbD_merge_outside {f : FieldDesc} {k : Nat} (h : k < f.lsb ∨ f.lsb + f.width ≤ k) (v : Nat)
    (b : Byte) : (f.merge v b).getLsbD k = b.getLsbD k := by
  by_cases hk : k < 8
  · have hm : f.mask.getLsbD k = false := by
      rw [f.getLsbD_mask]
      rcases h with h | h <;> simp [h]
    have hb := congrArg (fun b => b.getLsbD k) (f.merge_outside v b)
    simpa only [BitVec.getLsbD_and, BitVec.getLsbD_not, hm, hk, decide_true, Bool.not_false, Bool.and_true] using hb
  · rw [BitVec.getLsbD_of_ge _ _ (by omega), BitVec.getLsbD_of_ge _ _ (by omega)]

/-- A field that fills its byte is written without a read, so without a draw (20 R46, R47). -/
theorem State.fieldWrite_env_full {f : FieldDesc} (h : f.width = 8) (v : Nat) (s : State) :
    (s.fieldWrite f v).env = s.env := by
  rw [State.fieldWrite, if_pos h]
  rfl

/-- A narrower field is written with the draws of one read of its byte (20 R46, R47). -/
theorem State.fieldWrite_env_part {f : FieldDesc} (h : f.width ≠ 8) (v : Nat) (s : State) :
    (s.fieldWrite f v).env = (s.regRead f.reg).2.env := by
  rw [State.fieldWrite, if_neg h]
  rfl

/-- Settles O20: the byte written is the value itself or its merge into the byte read. -/
theorem fieldWriteReadModifyWrite : Obligations.FieldWriteReadModifyWrite := by
  intro f v s hf
  have hfit : f.lsb + f.width ≤ 8 := by
    simp only [FieldDesc.inByte, Bool.and_eq_true, decide_eq_true_eq] at hf
    exact hf.2
  have hstep := s.fieldWrite_bankStep f v
  have hval := State.field_fieldWrite_same hfit v s
  rw [State.field, hstep.cfg] at hval
  obtain ⟨evs, hbody, -⟩ := s.fieldWrite_trace f v
  refine ⟨_, rfl, hval, fun h8 => ?_, fun h8 => ?_, fun k hl hr => State.getLsbD_memRead hl hr,
    fun o ho => State.fieldWrite_stored_other ho v, hbody.setup, hstep.sameRuntime, hstep.ifaces⟩
  · rw [s.fieldWrite_stored_same, if_pos h8]
    exact ⟨(State.fieldWrite_body_full h8 v s).history, State.fieldWrite_env_full h8 v s⟩
  · have hne : f.width ≠ 8 := h8.ne
    rw [s.fieldWrite_stored_same, if_neg hne]
    exact ⟨(State.fieldWrite_body_part hne v s).history, State.fieldWrite_env_part hne v s,
      fun k hk => FieldDesc.getLsbD_merge_outside hk v _⟩

/-! ### Reads of the volatile fields -/

/-- A listed lock answer is drawn first (20 R46; log entry 4). -/
theorem State.drawLock_of_cons {s : State} {d : Bool} {ds : List Bool} (h : s.env.lock = d :: ds) :
    s.drawLock = (d, { s with env := { s.env with lock := ds } }) := by
  rw [State.drawLock, h]

theorem State.drawRunning_of_cons {s : State} {d : Bool} {ds : List Bool} (h : s.env.running = d :: ds) :
    s.drawRunning = (d, { s with env := { s.env with running := ds } }) := by
  rw [State.drawRunning, h]

theorem State.drawRunning_lock (s : State) : s.drawRunning.2.env.lock = s.env.lock := by
  unfold State.drawRunning
  split <;> rfl

theorem overlayLock_cfg (off : Nat) (r : Byte × State) : (overlayLock off r).2.cfg = r.2.cfg := by
  unfold overlayLock
  split
  · obtain ⟨e, h⟩ := r.2.drawLock_env
    rw [h]
  · rfl

/-- The lock bit's draw takes no answer meant for the "already running" bit. -/
theorem overlayLock_running (off : Nat) (r : Byte × State) : (overlayLock off r).2.env.running = r.2.env.running := by
  unfold overlayLock State.drawLock
  split
  · split <;> rfl
  · rfl

/-- The "already running" bit's draw takes no answer meant for the lock bit. -/
theorem overlayRunning_lock (off : Nat) (r : Byte × State) : (overlayRunning off r).2.env.lock = r.2.env.lock := by
  unfold overlayRunning
  split
  · exact r.2.drawRunning_lock
  · rfl

/-- The "already running" draw does not disturb a field apart from it. -/
theorem extract_overlayRunning_apart {f : FieldDesc} {off : Nat} {r : Byte × State}
    (h : off = r.2.cfg.offset .sysCtrl → f.mask &&& (r.2.cfg.fd .running).mask = 0) :
    f.extract (overlayRunning off r).1 = f.extract r.1 := by
  unfold overlayRunning
  split
  · exact extract_overlayBit_apart (h ‹_›) _ _
  · rfl

/-- A read of FD_LOCK gives the next listed lock answer and uses it up (20 R46). -/
theorem wf_fieldRead_lock {s : State} (hw : s.cfg.wellFormed = true) {d : Bool} {ds : List Bool}
    (h : s.env.lock = d :: ds) :
    (s.fieldRead (s.cfg.fd .lock)).1 = (if d then 1 else 0) ∧ (s.fieldRead (s.cfg.fd .lock)).2.env.lock = ds := by
  let off := s.cfg.offset .lockStatus
  have hl : overlayLock off (s.stored off, s) =
      (overlayBit (s.cfg.fd .lock) d (s.stored off), { s with env := { s.env with lock := ds } }) := by
    simp [overlayLock, off, State.drawLock_of_cons h]
  have hap : s.cfg.apart (s.cfg.fd .lock) (s.cfg.fd .running) = true := Params.wellFormed_apart hw (by decide)
  refine ⟨?_, ?_⟩
  · show (s.cfg.fd .lock).extract (overlayRunning off (overlayLock off (s.stored off, s))).1 = _
    rw [hl, extract_overlayRunning_apart (Params.apart_iff.mp hap)]
    exact extract_overlayBit_same (Params.wellFormed_inByte hw .lock).1 rfl d _
  · show (overlayRunning off (overlayLock off (s.stored off, s))).2.env.lock = ds
    rw [overlayRunning_lock, hl]

/-- A read of FD_RUNNING gives the next listed "already running" answer (20 R46). -/
theorem wf_fieldRead_running {s : State} (hw : s.cfg.wellFormed = true) {d : Bool} {ds : List Bool}
    (h : s.env.running = d :: ds) : (s.fieldRead (s.cfg.fd .running)).1 = (if d then 1 else 0) := by
  let off := s.cfg.offset .sysCtrl
  have hd := State.drawRunning_of_cons ((overlayLock_running off (s.stored off, s)).trans h)
  show (s.cfg.fd .running).extract (overlayRunning off (overlayLock off (s.stored off, s))).1 = _
  rw [overlayRunning, overlayLock_cfg, if_pos rfl, hd]
  exact extract_overlayBit_same (Params.wellFormed_inByte hw .running).1 rfl d _

/-- Settles O21: the drawn bit is merged last into the byte read, and the other fields lie apart from it. -/
theorem volatileReadsAreDraws : Obligations.VolatileReadsAreDraws := fun s hw =>
  ⟨fun _ _ h => (wf_fieldRead_lock hw h).1, fun _ _ h => wf_fieldRead_running hw h,
    fun _ hl hr => wf_fieldRead hw hl hr, fun _ _ => s.fieldRead_stored _ _⟩

end Sys2Proof.Machine

/-! PROOFS. The lock poll, IS_ENABLED and PREPARE (44_lifecycle). -/

namespace Sys2Proof.Machine

/-! ### The lock poll and the listed answers -/

/-- Zeros fewer than the attempts, then a one: a hit that uses just these answers (44 R162). -/
theorem lockPollFrom_answers_hit {n k : Nat} {s : State} {rest : List Bool} (hw : s.cfg.wellFormed = true) (hk : k < n)
    (h : s.env.lock = List.replicate k false ++ true :: rest) :
    (lockPollFrom n s).1 = true ∧ (lockPollFrom n s).2.env.lock = rest := by
  induction n generalizing k s with
  | zero => omega
  | succ n ih =>
    cases k with
    | zero =>
      obtain ⟨hv, hl⟩ := wf_fieldRead_lock hw h
      rw [lockPollFrom_hit hv]
      exact ⟨rfl, hl⟩
    | succ k =>
      obtain ⟨n, rfl⟩ : ∃ m, n = m + 1 := ⟨n - 1, by omega⟩
      obtain ⟨hv, hl⟩ := wf_fieldRead_lock hw h
      rw [lockPollFrom_miss (by rw [hv]; decide)]
      exact ih (by rwa [← s.fieldRead_cfg (s.cfg.fd .lock)] at hw) (by omega) hl

/-- As many zeros as attempts: a miss that uses just these answers (44 R162). -/
theorem lockPollFrom_answers_miss {n : Nat} {s : State} {rest : List Bool} (hw : s.cfg.wellFormed = true)
    (h : s.env.lock = List.replicate n false ++ rest) :
    (lockPollFrom n s).1 = false ∧ (lockPollFrom n s).2.env.lock = rest := by
  induction n generalizing s with
  | zero => exact ⟨rfl, h⟩
  | succ n ih =>
    obtain ⟨hv, hl⟩ := wf_fieldRead_lock hw h
    have hne : (s.fieldRead (s.cfg.fd .lock)).1 ≠ 1 := by rw [hv]; decide
    cases n with
    | zero =>
      rw [lockPollFrom_lastMiss hne]
      exact ⟨rfl, hl⟩
    | succ n =>
      rw [lockPollFrom_miss hne]
      exact ih (by rwa [← s.fieldRead_cfg (s.cfg.fd .lock)] at hw) hl

/-- Settles O39, attempt by attempt. -/
theorem lockPollFollowsDraws : Obligations.LockPollFollowsDraws := fun _ hw =>
  ⟨fun _ _ hk h => lockPollFrom_answers_hit hw hk h, fun _ h => lockPollFrom_answers_miss hw h⟩

theorem lockPoll_lockAnswers {s : State} (hw : s.cfg.wellFormed = true) : LockAnswers s.env.lock (lockPoll s).1 :=
  ⟨fun _ _ hk h => (lockPollFrom_answers_hit hw hk h).1, fun _ h => (lockPollFrom_answers_miss hw h).1⟩

/-- The poll's events, and all that it writes (44 R161, R162). -/
theorem lockPoll_polled (s : State) : ∃ evs env, Polled s.cfg (lockPoll s).1 evs ∧
    (lockPoll s).2 = { s with env := env, locked := (lockPoll s).1, history := s.history ++ evs } := by
  obtain ⟨vs, env, hs, hhit, hmiss⟩ := lockPollFrom_spec Config.lockPollAttempts s
  exact ⟨_, env, ⟨vs, rfl, hhit, hmiss⟩, hs⟩

/-- The poll as a body step: the events of `Polled`, and `locked` its outcome. -/
theorem lockPoll_polled_body (s : State) :
    ∃ evs, Polled s.cfg (lockPoll s).1 evs ∧ BodyStep s (lockPoll s).2 evs := by
  obtain ⟨evs, env, hp, h⟩ := lockPoll_polled s
  exact ⟨evs, hp, env, s.bank, _, _, _, _, _, h, id⟩

theorem lockPoll_locked (s : State) : (lockPoll s).2.locked = (lockPoll s).1 := by
  obtain ⟨evs, env, -, h⟩ := lockPoll_polled s
  rw [h]

/-- The same configuration over the same stored bytes. -/
def SameBytes (s t : State) : Prop := t.cfg = s.cfg ∧ ∀ off, t.stored off = s.stored off

theorem SameBytes.refl (s : State) : SameBytes s s := ⟨rfl, fun _ => rfl⟩

theorem SameBytes.trans {s t u : State} (h : SameBytes s t) (h' : SameBytes t u) : SameBytes s u :=
  ⟨h'.1.trans h.1, fun off => (h'.2 off).trans (h.2 off)⟩

theorem SameBytes.field {s t : State} (h : SameBytes s t) (f : FieldDesc) : t.field f = s.field f :=
  State.field_congr h.1 (h.2 _)

theorem State.fieldRead_sameBytes (f : FieldDesc) (s : State) : SameBytes s (s.fieldRead f).2 :=
  ⟨s.fieldRead_cfg f, s.fieldRead_stored f⟩

/-- The poll writes no byte (44 R161). -/
theorem lockPoll_sameBytes (s : State) : SameBytes s (lockPoll s).2 := by
  obtain ⟨evs, env, -, h⟩ := lockPoll_polled s
  rw [h]
  exact ⟨rfl, fun _ => rfl⟩

theorem finished_sameBytes (op : Byte) (e : ErrCode) (rs : List (Fin 6 × Nat)) (v : State) :
    SameBytes v (finishCommand op e (v.setAll rs)) :=
  ⟨by rw [finishCommand_cfg, v.setAll_eq rs], finished_stored op e rs v⟩

/-! ### IS_ENABLED -/

/-- Settles O40: the body is one poll and one result. -/
theorem isEnabledCompletes : Obligations.IsEnabledCompletes := by
  intro s hs
  obtain ⟨evs, hp, hb⟩ := lockPoll_polled_body s
  obtain ⟨hx, he⟩ := exec_completes (i := .isEnabled) (rs := [(0, if (lockPoll s).1 then 1 else 0)]) hs rfl hb (by simp)
  have hfin := (finished_untouched (opcode .isEnabled) .ok [(0, if (lockPoll s).1 then 1 else 0)] (lockPoll s).2).1
  have ⟨_, hlocked, _⟩ := hfin
  exact ⟨_, evs, _, hx, he, hp, hlocked.trans (lockPoll_locked s), (lockPoll_sameButLocked s).trans hfin.butLocked,
    ((lockPoll_sameBytes s).trans (finished_sameBytes _ _ _ _)).2, lockPoll_lockAnswers⟩

end Sys2Proof.Machine

/-! PROOFS. PREPARE while powered off (44 R164 to R166). -/

namespace Sys2Proof.Machine

/-! ### Sequences that take no lock answer -/

theorem State.fieldWrite_envLock {f : FieldDesc} {s : State} (h : s.cfg.offset f.reg ≠ s.cfg.offset .lockStatus)
    (v : Nat) : (s.fieldWrite f v).env.lock = s.env.lock := by
  by_cases hw : f.width = 8
  · rw [State.fieldWrite_env_full hw]
  · rw [State.fieldWrite_env_part hw]
    exact State.memRead_envLock h

/-- An operation that stays off LOCK_STATUS's offset takes no lock answer (20 R46). -/
theorem RegOp.run_envLock {o : RegOp} {s : State} (h : ∀ r ∈ o.writes, s.cfg.offset r ≠ s.cfg.offset .lockStatus) :
    (o.run s).env.lock = s.env.lock := by
  cases o with
  | field f v => exact State.fieldWrite_envLock (h _ (by simp [RegOp.writes])) v
  | field2 f v g w =>
    have hf : s.cfg.offset f.reg ≠ s.cfg.offset .lockStatus := h _ (by simp [RegOp.writes])
    have hg : s.cfg.offset g.reg ≠ s.cfg.offset .lockStatus := h _ (by simp [RegOp.writes])
    show (s.fieldWrite2 f v g w).env.lock = _
    unfold State.fieldWrite2
    split
    · exact State.memRead_envLock hf
    · rw [State.fieldWrite_envLock (by rwa [(s.fieldWrite_bankStep f v).cfg]), State.fieldWrite_envLock hf]
  | byte r v => rfl
  | delay us => rfl
  | barrier => rfl

theorem runOps_envLock {l : List RegOp} {s : State}
    (h : ∀ o ∈ l, ∀ r ∈ o.writes, s.cfg.offset r ≠ s.cfg.offset .lockStatus) :
    (runOps l s).env.lock = s.env.lock := by
  induction l generalizing s with
  | nil => rfl
  | cons o rest ih =>
    have hc := (o.run_bankStep s).cfg
    exact (ih (fun o' ho' r hr => hc ▸ h o' (List.mem_cons_of_mem _ ho') r hr)).trans
      (RegOp.run_envLock (h o List.mem_cons_self))

/-! ### The toggle and its poll -/

/-- The state after one toggle of system-control (44 R165). -/
def toggled (s : State) : State := runOps (toggleOps s.cfg) s

theorem toggled_cfg (s : State) : (toggled s).cfg = s.cfg := (runOps_bankStep _ s).cfg

theorem toggled_poweredOn (s : State) : (toggled s).poweredOn = s.poweredOn := (runOps_bankStep _ s).poweredOn

theorem toggled_body (s : State) : BodyStep s (toggled s) (toggleEvents s.cfg) :=
  (((s.regWrite_body .sysCtrl s.cfg.sysctrlV1).trans (.of_record (.delay 5) _)).trans
    (State.regWrite_body .sysCtrl s.cfg.sysctrlV2 _)).trans (.of_record (.delay 50) _)

/-- The toggle leaves its second value in SYS_CTRL (44 R165). -/
theorem toggled_stored_sysCtrl (s : State) : (toggled s).stored (s.cfg.offset .sysCtrl) = s.cfg.sysctrlV2 :=
  State.memWrite_stored_same _ _ _

theorem toggleOps_writes {p : Params} : ∀ o ∈ toggleOps p, ∀ r ∈ o.writes, r = .sysCtrl := by
  simp [toggleOps, RegOp.writes]

theorem toggled_bytesKept (s : State) : BytesKept [.sysCtrl] s (toggled s) := fun _ h =>
  runOps_stored_other (fun o ho r hr => toggleOps_writes o ho r hr ▸ h _ List.mem_cons_self)

/-- The toggle takes no lock answer, so that its poll follows those listed before it (20 R46, 44 R162). -/
theorem toggled_lockAnswers {s : State} (hw : s.cfg.wellFormed = true)
    (h : s.cfg.offset .sysCtrl ≠ s.cfg.offset .lockStatus) : LockAnswers s.env.lock (lockPoll (toggled s)).1 := by
  rw [← show (toggled s).env.lock = s.env.lock from
    runOps_envLock (fun o ho r hr => toggleOps_writes o ho r hr ▸ h)]
  exact lockPoll_lockAnswers (by rwa [toggled_cfg])

/-- What a toggle and its poll give while off (44 R165, R166): the poll decides the code and both flags. -/
structure TogglePoll (s : State) (hit : Bool) (evs : List Event) (r : ErrCode × State) : Prop where
  polled : Polled s.cfg hit evs
  code : r.1 = if hit then .ok else .lockTimeout
  body : BodyStep s r.2 (toggleEvents s.cfg ++ evs)
  poweredOn : r.2.poweredOn = hit
  locked : r.2.locked = hit
  bytes : SameBytes (toggled s) r.2

theorem toggleAndPoll_of_off {s : State} (hoff : s.poweredOn = false) :
    ∃ evs, TogglePoll s (lockPoll (toggled s)).1 evs (toggleAndPoll s) := by
  obtain ⟨evs, hp, hb⟩ := lockPoll_polled_body (toggled s)
  rw [toggled_cfg] at hp
  have hbody := (toggled_body s).trans hb
  have hlk := lockPoll_locked (toggled s)
  have hsame := lockPoll_sameBytes (toggled s)
  have hpow : (lockPoll (toggled s)).2.poweredOn = false :=
    (lockPoll_sameButLocked _).1.trans ((toggled_poweredOn s).trans hoff)
  have he : toggleAndPoll s = if (lockPoll (toggled s)).1 then (.ok, (lockPoll (toggled s)).2.setPoweredOn true)
    else (.lockTimeout, (lockPoll (toggled s)).2) := rfl
  refine ⟨evs, ?_⟩
  rw [he]
  cases h : (lockPoll (toggled s)).1 with
  | true =>
    rw [h] at hp hlk
    exact ⟨hp, rfl, hbody.setPoweredOn true, rfl, hlk, hsame⟩
  | false =>
    rw [h] at hp hlk
    exact ⟨hp, rfl, hbody, hpow, hlk, hsame⟩

/-! ### The cold path -/

theorem prepareBody_cold {s : State} (hoff : s.poweredOn = false) (hrun : (s.fieldRead (s.cfg.fd .running)).1 = 0) :
    prepareBody s = toggleAndPoll (s.fieldRead (s.cfg.fd .running)).2 := by
  simp [prepareBody, hoff, prepareOff, hrun]

theorem prepareBody_sameButPower {s : State} (hoff : s.poweredOn = false) : SameButPower s (prepareBody s).2 := by
  simpa [prepareBody, hoff] using prepareOff_sameButPower s

/-- PREPARE of a ready block that is off: its answer and report, and that completion leaves all else as the body did. -/
theorem exec_prepare {s : State} {evs : List Event} (hs : Ready s) (hoff : s.poweredOn = false)
    (hb : BodyStep s (prepareBody s).2 evs) :
    ∃ t, exec .prepare s = .next t ∧ Ends 0x20 (prepareBody s).1 [] evs s t ∧ SameBytes (prepareBody s).2 t ∧
      t.poweredOn = (prepareBody s).2.poweredOn ∧ t.locked = (prepareBody s).2.locked ∧ SameButPower s t := by
  obtain ⟨hx, he⟩ := exec_completes (i := .prepare) (rs := []) hs rfl hb (by simp)
  obtain ⟨hrun, -⟩ := finished_untouched (opcode .prepare) (prepareBody s).1 [] (prepareBody s).2
  have ⟨hpow, hlk, _⟩ := hrun
  exact ⟨_, hx, he, finished_sameBytes _ _ [] _, hpow, hlk,
    (prepareBody_sameButPower hoff).trans hrun.butLocked.butPower⟩

/-- The read that PREPARE starts with takes no lock answer (20 R46). -/
theorem State.fieldRead_running_envLock {s : State} (h : s.cfg.offset .sysCtrl ≠ s.cfg.offset .lockStatus) :
    (s.fieldRead (s.cfg.fd .running)).2.env.lock = s.env.lock :=
  State.memRead_envLock h

/-- Settles O42: one read, then the toggle and its poll. -/
theorem prepareColdPath : Obligations.PrepareColdPath := by
  intro s hs hoff hrun
  have hread := s.fieldRead_bankStep (s.cfg.fd .running)
  have hevent := s.fieldRead_body (s.cfg.fd .running)
  have hbytes := s.fieldRead_sameBytes (s.cfg.fd .running)
  have hanswers := State.fieldRead_running_envLock (s := s)
  have hbody := prepareBody_cold hoff hrun
  generalize (s.fieldRead (s.cfg.fd .running)).2 = u at *
  have hcfg : u.cfg = s.cfg := hread.cfg
  obtain ⟨evs, hpoll⟩ := toggleAndPoll_of_off (hread.poweredOn.trans hoff)
  rw [← hbody] at hpoll
  obtain ⟨t, hx, he, hend, tpow, tlk, hrate, hcache, hstatus⟩ := exec_prepare hs hoff (hevent.trans hpoll.body)
  have hst := (hpoll.bytes.trans hend).2
  have hsys := toggled_stored_sysCtrl u
  have hp := hpoll.polled
  rw [hpoll.code] at he
  rw [hcfg] at hp he hsys
  refine ⟨t, _, evs, _, hp, hx, he, tpow.trans hpoll.poweredOn, tlk.trans hpoll.locked, hrate, hcache, hstatus,
    (hst _).trans hsys, fun off h => ?_, fun hw hl => ?_⟩
  · exact (hst off).trans ((toggled_bytesKept u off (hcfg ▸ h)).trans (hbytes.2 off))
  · rw [← hanswers hl]
    rw [← hcfg] at hw hl
    exact toggled_lockAnswers hw hl

end Sys2Proof.Machine

/-! PROOFS. The relock path of PREPARE (44 R164 to R166). -/

namespace Sys2Proof.Machine

/-! ### The override, then the toggle -/

/-- The override pair written and its delay (44 R165). -/
def overrideSet (s : State) : State :=
  (s.fieldWrite2 (s.cfg.fd .ovrEn) 0 (s.cfg.fd .ovr) 1).delayUs s.cfg.tPrepOvr

theorem overrideSet_cfg (s : State) : (overrideSet s).cfg = s.cfg := (s.fieldWrite2_bankStep _ _ _ _).cfg

theorem overrideSet_poweredOn (s : State) : (overrideSet s).poweredOn = s.poweredOn :=
  (s.fieldWrite2_bankStep _ _ _ _).poweredOn

/-- The relock branch's first sequence is the override and the toggle (44 R165). -/
theorem runOps_override_toggle (s : State) :
    runOps (overrideOps s.cfg ++ toggleOps s.cfg) s = toggled (overrideSet s) := by
  rw [runOps_append, toggled, overrideSet_cfg]
  rfl

/-- The events of the override, from the byte read (42 R125, 44 R165). -/
def overrideEvents (p : Params) (c : Byte) : List Event :=
  [.read (p.offset .pwrupCtrl) c,
    .write (p.offset .pwrupCtrl)
      ((c &&& ~~~((p.fd .ovrEn).mask ||| (p.fd .ovr).mask)) ||| (p.fd .ovrEn).place 0 ||| (p.fd .ovr).place 1),
    .delay p.tPrepOvr]

theorem overrideSet_body (s : State) :
    BodyStep s (overrideSet s) (overrideEvents s.cfg (s.regRead .pwrupCtrl).1) :=
  (State.fieldWrite2_body_same (f := s.cfg.fd .ovrEn) (g := s.cfg.fd .ovr) rfl 0 1 s).trans (.of_record (.delay _) _)

theorem overrideSet_bytesKept (s : State) : BytesKept [.pwrupCtrl] s (overrideSet s) := fun _ h =>
  State.fieldWrite2_stored_other (h _ List.mem_cons_self) (h _ List.mem_cons_self) 0 1

theorem overrideSet_envLock {s : State} (h : s.cfg.offset .pwrupCtrl ≠ s.cfg.offset .lockStatus) :
    (overrideSet s).env.lock = s.env.lock :=
  RegOp.run_envLock (o := .field2 (s.cfg.fd .ovrEn) 0 (s.cfg.fd .ovr) 1) (by simpa [RegOp.writes, Params.fd] using h)

/-- The pair reads back as written (42 R125). -/
theorem overrideSet_fields {s : State} (hw : s.cfg.wellFormed = true) :
    (overrideSet s).field (s.cfg.fd .ovrEn) = 0 ∧ (overrideSet s).field (s.cfg.fd .ovr) = 1 := by
  have ha : s.cfg.apart (s.cfg.fd .ovrEn) (s.cfg.fd .ovr) = true := Params.wellFormed_apart hw (by decide)
  exact ⟨State.field_fieldWrite2_fst (wf_fits hw _) (wf_fits hw _)
      (NonVolatile.of_wellFormed hw (by decide) (by decide)) ha 0 1,
    State.field_fieldWrite2_snd (wf_fits hw _) ha 0 1⟩

theorem overrideSet_field_kept {s : State} (hw : s.cfg.wellFormed = true) {a : FieldName} (he : a ≠ .ovrEn)
    (ho : a ≠ .ovr) (hl : a ≠ .lock) (hr : a ≠ .running) :
    (overrideSet s).field (s.cfg.fd a) = s.field (s.cfg.fd a) :=
  State.field_fieldWrite2_apart (wf_fits hw .ovrEn) (wf_fits hw .ovr) (NonVolatile.of_wellFormed hw hl hr)
    (Params.wellFormed_apart hw (by decide)) (Params.wellFormed_apart hw he) (Params.wellFormed_apart hw ho) 0 1

/-! ### The clock select -/

/-- The clock select written and its delay (44 R165). -/
def clkselSet (s : State) : State :=
  (s.fieldWrite (s.cfg.fd .clksel) (2 ^ s.cfg.widthClksel - 1)).delayUs s.cfg.tPrepClksel

theorem runOps_clksel (s : State) : runOps (clkselOps s.cfg) s = clkselSet s := rfl

theorem clkselSet_cfg (s : State) : (clkselSet s).cfg = s.cfg := (s.fieldWrite_bankStep _ _).cfg

theorem clkselSet_poweredOn (s : State) : (clkselSet s).poweredOn = s.poweredOn :=
  (s.fieldWrite_bankStep _ _).poweredOn

/-- One write of a field that fills its byte, else a read and a write; then the delay (20 R47). -/
theorem clkselSet_body (s : State) : ∃ cevs, BodyStep s (clkselSet s) (cevs ++ [.delay s.cfg.tPrepClksel]) ∧
    (s.cfg.widthClksel < 8 → MergeEvents s.cfg (s.cfg.fd .clksel) (2 ^ s.cfg.widthClksel - 1) cevs) ∧
    (s.cfg.widthClksel = 8 → cevs = [.write (s.cfg.offset .pllCntrl) 0xFF]) := by
  have hdelay := BodyStep.of_record (.delay s.cfg.tPrepClksel)
    (s.fieldWrite (s.cfg.fd .clksel) (2 ^ s.cfg.widthClksel - 1))
  by_cases h : s.cfg.widthClksel = 8
  · refine ⟨_, (State.fieldWrite_body_full (f := s.cfg.fd .clksel) h _ s).trans hdelay, by omega, fun _ => ?_⟩
    rw [h]
    rfl
  · obtain ⟨cevs, hm, hb⟩ := State.fieldWrite_merge (f := s.cfg.fd .clksel) h (2 ^ s.cfg.widthClksel - 1) s
    exact ⟨cevs, hb.trans hdelay, fun _ => hm, fun h8 => absurd h8 h⟩

theorem clkselSet_bytesKept (s : State) : BytesKept [.pllCntrl] s (clkselSet s) := fun _ h =>
  State.fieldWrite_stored_other (h _ List.mem_cons_self) _

theorem clkselSet_field {s : State} (hw : s.cfg.wellFormed = true) :
    (clkselSet s).field (s.cfg.fd .clksel) = 2 ^ s.cfg.widthClksel - 1 :=
  (wf_field_write hw .clksel _).trans (Nat.mod_eq_of_lt (Nat.sub_lt (Nat.two_pow_pos _) Nat.one_pos))

theorem clkselSet_field_kept {s : State} (hw : s.cfg.wellFormed = true) {a : FieldName} (ha : a ≠ .clksel)
    (hl : a ≠ .lock) (hr : a ≠ .running) : (clkselSet s).field (s.cfg.fd a) = s.field (s.cfg.fd a) :=
  wf_field_kept hw ha hl hr _

/-! ### The bank after the relock path -/

/-- A named field whose register the toggle does not write keeps its value. -/
theorem toggled_field {p : Params} {u : State} (hc : u.cfg = p) (hw : p.wellFormed = true) (a : FieldName)
    (hl : a ≠ .lock) (hr : a ≠ .running) (ho : p.offset (p.fd a).reg ≠ p.offset .sysCtrl) :
    (toggled u).field (p.fd a) = u.field (p.fd a) := by
  subst hc
  exact runOps_field (NonVolatile.of_wellFormed hw hl hr) (by simp [toggleOps, RegOp.avoids, ho])

/-- What the relock path leaves in the bank, by its first poll's outcome (44 R164 to R166). -/
structure RelockBank (s : State) (hit : Bool) (t : State) : Prop where
  cfg : t.cfg = s.cfg
  bytes : BytesKept [.sysCtrl, .pwrupCtrl, .pllCntrl] s t
  bytesOfMiss : hit = false → BytesKept [.sysCtrl, .pwrupCtrl] s t
  sysCtrl : t.stored (s.cfg.offset .sysCtrl) = s.cfg.sysctrlV2
  override : s.cfg.wellFormed = true → s.cfg.offset .pwrupCtrl ≠ s.cfg.offset .sysCtrl →
    t.field (s.cfg.fd .ovrEn) = 0 ∧ t.field (s.cfg.fd .ovr) = 1
  clksel : s.cfg.wellFormed = true → s.cfg.offset .pllCntrl ≠ s.cfg.offset .sysCtrl →
    t.field (s.cfg.fd .clksel) = if hit then 2 ^ s.cfg.widthClksel - 1 else s.field (s.cfg.fd .clksel)
  others : s.cfg.wellFormed = true → ∀ a, a ∉ [FieldName.ovrEn, .ovr, .clksel, .lock, .running] →
    s.cfg.offset (s.cfg.fd a).reg ≠ s.cfg.offset .sysCtrl → t.field (s.cfg.fd a) = s.field (s.cfg.fd a)

/-- It is a matter of the configuration and the stored bytes alone. -/
theorem RelockBank.congr {s u t v : State} {hit : Bool} (h : RelockBank u hit t) (hs : SameBytes s u)
    (ht : SameBytes t v) : RelockBank s hit v := by
  obtain ⟨hc, hb, hm, hy, hov, hcl, hot⟩ := h
  have hsf (f : FieldDesc) := hs.field f
  obtain ⟨hsc, hss⟩ := hs
  rw [hsc] at hc hy hov hcl hot
  refine ⟨ht.1.trans hc, fun off h => ?_, fun hh off h => ?_, (ht.2 _).trans hy, ?_, ?_, ?_⟩
  · exact (ht.2 off).trans ((hb off (hsc ▸ h)).trans (hss off))
  · exact (ht.2 off).trans ((hm hh off (hsc ▸ h)).trans (hss off))
  · simpa only [ht.field] using hov
  · simpa only [ht.field, hsf] using hcl
  · simpa only [ht.field, hsf] using hot

theorem BytesKept.trans {rs rs' : List RegName} {s t u : State} (hc : t.cfg = s.cfg) (h : BytesKept rs s t)
    (h' : BytesKept rs' t u) : BytesKept (rs ++ rs') s u := fun off ho =>
  (h' off (fun r hr => hc ▸ ho r (List.mem_append_right _ hr))).trans (h off fun r hr => ho r (List.mem_append_left _ hr))

theorem BytesKept.mono {rs rs' : List RegName} {s t : State} (h : BytesKept rs s t) (hrs : rs ⊆ rs') :
    BytesKept rs' s t := fun off ho => h off fun r hr => ho r (hrs hr)

/-- After the override and the toggle, as before the first poll. -/
theorem toggled_overrideSet_bank (s : State) : RelockBank s false (toggled (overrideSet s)) := by
  have hc := overrideSet_cfg s
  have hmiss := (overrideSet_bytesKept s).trans hc (toggled_bytesKept _)
  have hsys := toggled_stored_sysCtrl (overrideSet s)
  rw [hc] at hsys
  refine ⟨(toggled_cfg _).trans hc, hmiss.mono (by decide), fun _ => hmiss.mono (by decide), hsys,
    fun hw ho => ?_, fun hw ho => ?_, fun hw a ha ho => ?_⟩
  · rw [toggled_field hc hw .ovrEn (by decide) (by decide) ho, toggled_field hc hw .ovr (by decide) (by decide) ho]
    exact overrideSet_fields hw
  · rw [toggled_field hc hw .clksel (by decide) (by decide) ho]
    exact overrideSet_field_kept hw (by decide) (by decide) (by decide) (by decide)
  · simp only [List.mem_cons, List.not_mem_nil, or_false, not_or] at ha
    obtain ⟨he, hov, -, hl, hr⟩ := ha
    rw [toggled_field hc hw a hl hr ho]
    exact overrideSet_field_kept hw he hov hl hr

/-- After the clock select and the second toggle, which follow the first poll's hit. -/
theorem RelockBank.toggled_clkselSet {s t : State} (h : RelockBank s false t) :
    RelockBank s true (toggled (clkselSet t)) := by
  obtain ⟨ht, -, hm, -, hov, -, hot⟩ := h
  have hc := (clkselSet_cfg t).trans ht
  have hmem := ((hm rfl).trans ht (clkselSet_bytesKept t)).trans hc (toggled_bytesKept _)
  have hsys := toggled_stored_sysCtrl (clkselSet t)
  have hsel {a : FieldName} (hw : s.cfg.wellFormed = true) (ha : a ≠ .clksel) (hl : a ≠ .lock) (hr : a ≠ .running) :
      (clkselSet t).field (s.cfg.fd a) = t.field (s.cfg.fd a) := by
    rw [← ht] at hw ⊢
    exact clkselSet_field_kept hw ha hl hr
  rw [hc] at hsys
  refine ⟨(toggled_cfg _).trans hc, hmem.mono (by decide), by simp, hsys,
    fun hw ho => ?_, fun hw ho => ?_, fun hw a ha ho => ?_⟩
  · rw [toggled_field hc hw .ovrEn (by decide) (by decide) ho, toggled_field hc hw .ovr (by decide) (by decide) ho,
      hsel hw (by decide) (by decide) (by decide), hsel hw (by decide) (by decide) (by decide)]
    exact hov hw ho
  · rw [toggled_field hc hw .clksel (by decide) (by decide) ho, if_pos rfl]
    rw [← ht] at hw ⊢
    exact clkselSet_field hw
  · have hall := ha
    simp only [List.mem_cons, List.not_mem_nil, or_false, not_or] at ha
    obtain ⟨-, -, hcl, hl, hr⟩ := ha
    rw [toggled_field hc hw a hl hr ho, hsel hw hcl hl hr]
    exact hot hw a hall ho

/-! ### The rest of PREPARE after the first poll -/

/-- The relock branch's poll, after the override and the first toggle (44 R165). -/
def relockPoll (u : State) : Bool × State := lockPoll (toggled (overrideSet u))

/-- What PREPARE does with the outcome and the state of the relock branch's poll (44 R164, R165). -/
def afterPoll (p : Bool × State) : ErrCode × State :=
  if p.1 then toggleAndPoll (clkselSet p.2) else (.lockTimeout, p.2)

theorem relock_eq (u : State) : relock u =
    if (relockPoll u).1 then (true, clkselSet (relockPoll u).2) else (false, (relockPoll u).2) := by
  rw [relockPoll, ← runOps_clksel, (lockPoll_sameBytes _).1, toggled_cfg, overrideSet_cfg, ← runOps_override_toggle,
    relock]

theorem prepareBody_relock {s : State} (hoff : s.poweredOn = false)
    (hrun : (s.fieldRead (s.cfg.fd .running)).1 = 1) :
    prepareBody s = afterPoll (relockPoll (s.fieldRead (s.cfg.fd .running)).2) := by
  simp only [prepareBody, hoff, prepareOff, hrun, relock_eq, afterPoll]
  cases (relockPoll (s.fieldRead (s.cfg.fd .running)).2).1 <;> simp

/-- The events after the first poll, and how they decide the code and both flags (44 R164 to R166). -/
def RelockEnd (p : Params) (hit : Bool) (rest : List Event) (r : ErrCode × State) : Prop :=
  (hit = false → r.1 = .lockTimeout ∧ rest = [] ∧ r.2.poweredOn = false ∧ r.2.locked = false) ∧
  (hit = true → ∃ cevs evs2 hit2, Polled p hit2 evs2 ∧
    rest = cevs ++ [.delay p.tPrepClksel] ++ toggleEvents p ++ evs2 ∧
    (p.widthClksel < 8 → MergeEvents p (p.fd .clksel) (2 ^ p.widthClksel - 1) cevs) ∧
    (p.widthClksel = 8 → cevs = [.write (p.offset .pllCntrl) 0xFF]) ∧
    r.1 = (if hit2 then .ok else .lockTimeout) ∧ r.2.poweredOn = hit2 ∧ r.2.locked = hit2)

theorem afterPoll_miss {v : State} (hoff : v.poweredOn = false) (hlk : v.locked = false) :
    RelockEnd v.cfg false [] (afterPoll (false, v)) :=
  ⟨fun _ => ⟨rfl, rfl, hoff, hlk⟩, by simp⟩

theorem afterPoll_hit {v : State} (hoff : v.poweredOn = false) :
    ∃ rest, BodyStep v (afterPoll (true, v)).2 rest ∧ RelockEnd v.cfg true rest (afterPoll (true, v)) := by
  obtain ⟨cevs, hb, hpart, hfull⟩ := clkselSet_body v
  obtain ⟨evs, hpolled, hcode, hbody, hon, hlk, -⟩ := toggleAndPoll_of_off ((clkselSet_poweredOn v).trans hoff)
  rw [clkselSet_cfg] at hpolled hbody
  refine ⟨_, hb.trans hbody, by simp, fun _ => ⟨cevs, evs, _, hpolled, ?_, hpart, hfull, hcode, hon, hlk⟩⟩
  simp only [List.append_assoc]

theorem afterPoll_spec {p : Bool × State} (hoff : p.2.poweredOn = false) (hlk : p.2.locked = p.1) :
    ∃ rest, BodyStep p.2 (afterPoll p).2 rest ∧ RelockEnd p.2.cfg p.1 rest (afterPoll p) := by
  obtain ⟨hit, v⟩ := p
  cases hit with
  | false => exact ⟨[], .refl v, afterPoll_miss hoff hlk⟩
  | true => exact afterPoll_hit hoff

theorem RelockBank.afterPoll {s : State} {p : Bool × State} (hoff : p.2.poweredOn = false)
    (h : RelockBank s false p.2) : RelockBank s p.1 (afterPoll p).2 := by
  obtain ⟨hit, v⟩ := p
  cases hit with
  | false => exact h
  | true =>
    obtain ⟨evs, hpoll⟩ := toggleAndPoll_of_off ((clkselSet_poweredOn v).trans hoff)
    exact h.toggled_clkselSet.congr (.refl s) hpoll.bytes

/-- The relock path from the read of FD_RUNNING's byte on (44 R165): its events, its end and the bank it leaves. -/
theorem relock_path {u : State} (hoff : u.poweredOn = false) :
    ∃ evs rest, Polled u.cfg (relockPoll u).1 evs ∧
      BodyStep u (afterPoll (relockPoll u)).2
        (overrideEvents u.cfg (u.regRead .pwrupCtrl).1 ++ toggleEvents u.cfg ++ evs ++ rest) ∧
      RelockEnd u.cfg (relockPoll u).1 rest (afterPoll (relockPoll u)) ∧
      RelockBank u (relockPoll u).1 (afterPoll (relockPoll u)).2 := by
  have hset := overrideSet_body u
  have htog := toggled_body (overrideSet u)
  have hbank : RelockBank u false (relockPoll u).2 :=
    (toggled_overrideSet_bank u).congr (.refl u) (lockPoll_sameBytes _)
  have hlk : (relockPoll u).2.locked = (relockPoll u).1 := lockPoll_locked _
  have hon : (relockPoll u).2.poweredOn = false :=
    (lockPoll_sameButLocked _).1.trans ((toggled_poweredOn _).trans ((overrideSet_poweredOn u).trans hoff))
  obtain ⟨evs, hp, hpoll⟩ := lockPoll_polled_body (toggled (overrideSet u))
  obtain ⟨rest, hrest, hend⟩ := afterPoll_spec hon hlk
  rw [toggled_cfg, overrideSet_cfg] at hp
  rw [overrideSet_cfg] at htog
  rw [hbank.cfg] at hend
  exact ⟨evs, rest, hp, ((hset.trans htog).trans hpoll).trans hrest, hend, hbank.afterPoll hon⟩

/-- The first poll of the relock path follows the listed lock answers where neither register written before it shares
LOCK_STATUS's offset (20 R46, 44 R162). -/
theorem relock_lockAnswers {u : State} (hw : u.cfg.wellFormed = true)
    (hs : u.cfg.offset .sysCtrl ≠ u.cfg.offset .lockStatus) (hp : u.cfg.offset .pwrupCtrl ≠ u.cfg.offset .lockStatus) :
    LockAnswers u.env.lock (relockPoll u).1 := by
  rw [← overrideSet_envLock hp]
  exact toggled_lockAnswers (by rwa [overrideSet_cfg]) (by rwa [overrideSet_cfg])

/-- Settles O43: one read, the override, the toggle and its poll, then what the poll's outcome decides. -/
theorem prepareRelockPath : Obligations.PrepareRelockPath := by
  intro s hs hoff hrun
  have hread := s.fieldRead_bankStep (s.cfg.fd .running)
  have hevent := s.fieldRead_body (s.cfg.fd .running)
  have hbytes := s.fieldRead_sameBytes (s.cfg.fd .running)
  have hanswers := State.fieldRead_running_envLock (s := s)
  have hbody := prepareBody_relock hoff hrun
  generalize (s.fieldRead (s.cfg.fd .running)).2 = u at *
  have hcfg : u.cfg = s.cfg := hread.cfg
  obtain ⟨evs, rest, hpolled, hpath, hend, hbank⟩ := relock_path (hread.poweredOn.trans hoff)
  rw [← hbody] at hpath hend hbank
  rw [hcfg] at hpolled hpath hend
  obtain ⟨t, hx, he, hsame, ton, tlk, hrate, hcache, hstatus⟩ := exec_prepare hs hoff (hevent.trans hpath)
  have hb := hbank.congr hbytes hsame
  rw [RelockEnd, ← ton, ← tlk] at hend
  obtain ⟨hmiss, hhit⟩ := hend
  refine ⟨t, _, _, evs, rest, _, hpolled, hx, hrate, hcache, hstatus, hb.bytes, hb.sysCtrl, hb.override, hb.clksel,
    hb.others, fun hw hl hp => ?_, _, he, fun h => ?_, hhit⟩
  · rw [← hanswers hl]
    rw [← hcfg] at hw hl hp
    exact relock_lockAnswers hw hl hp
  · obtain ⟨hcode, hnil, hon, hlk⟩ := hmiss h
    exact ⟨hcode, hnil, hon, hlk, hb.bytesOfMiss h⟩

end Sys2Proof.Machine

/-! PROOFS. Starts and finishes of commands: what runs, what holds, what faults (20 R57 to R59, 60 R206). -/

namespace Sys2Proof.Machine

/-! ### A finish -/

/-- Once construction has ended, an agent with a command in progress finishes it (20 R57). -/
theorem step_finish {s : State} {a : Nat} {w : Word} {i : Instr} {rest : List Turn} (hf : s.fault = none)
    (hr : s.refused = none) (hst : s.started = true) (hs : s.schedule = .agent a :: rest)
    (ha : agentExists s.cfg a = true) (hw : Sparse.find? s.inProgress a = some w) (hi : decode w = .ok i) :
    step s = exec i { s with schedule := rest, turn := a } := by
  rw [step_eq hf hr]
  simp [nextMove, hs, hst, ha, agentMove, hw, hi]

/-- A word of 32 bits is placed as it stands (log entry 10). -/
theorem withFetchWord_eq (s : State) (w : Nat) : s.withFetchWord 32 w = placeCommand (BitVec.ofNat 32 w) s := by
  have hw : BitVec.ofNat 32 (w % 2 ^ 32) = BitVec.ofNat 32 w := BitVec.eq_of_toNat_eq (by simp)
  rw [State.withFetchWord, hw]

/-- Settles O3: the finish is the move that the schedule names, and a placed word is agent 1's. -/
theorem stepRunsDecodedCommand : Obligations.StepRunsDecodedCommand := by
  refine ⟨fun _ _ _ _ _ => step_finish, fun s w i hf hr hst hi => ?_⟩
  rw [withFetchWord_eq]
  exact step_finish (s := placeCommand (BitVec.ofNat 32 w) s) hf hr hst rfl rfl (Sparse.find?_insert_same _ _ _) hi

/-! ### Words and classes -/

/-- The opcode table read backwards gives the opcode decoded (30 R64). -/
theorem opcode_of_decodeOp {op : Byte} {i : Instr} (h : decodeOp op = .ok i) : opcode i = op := by
  unfold decodeOp at h
  split at h <;> cases h
  all_goals exact (BitVec.eq_of_toNat_eq ‹_›).symm

theorem opField_of_decode {w : Word} {i : Instr} (h : decode w = .ok i) : opField w = opcode i := by
  unfold decode at h
  split at h
  · exact (opcode_of_decodeOp h).symm
  · cases h

theorem classOfWord_of_decode {w : Word} {i : Instr} (h : decode w = .ok i) : classOfWord w = classOf i := by
  rw [classOfWord, h]

theorem classOf_eq_pure {i : Instr} :
    classOf i = .pure ↔ i ∈ [Instr.multX100, .gcd, .plan, .sscCompute, .roundRate, .pixdivRoundRate] := by
  cases i <;> decide

theorem classOf_eq_postdivMux {i : Instr} : classOf i = .postdivMux ↔ i ∈ [Instr.postdivSet, .postdivGet] := by
  cases i <;> decide

theorem classOf_eq_gpdivMux {i : Instr} : classOf i = .gpdivMux ↔ i ∈ [Instr.gpdivSet, .gpdivGet] := by
  cases i <;> decide

/-- The offsets of 20 R58 case 3. -/
theorem muxesApart_eq_true {p : Params} : muxesApart p = true ↔ p.offset .vcoCntrl ≠ p.offset .gpdivReg ∧
    p.offset .cpBias ≠ p.offset .gpdivReg ∧ p.offset p.subrangeReg.reg ≠ p.offset .gpdivReg := by
  simp [muxesApart, and_assoc]

theorem muxesApart_eq_false {p : Params} : muxesApart p = false ↔ p.offset .vcoCntrl = p.offset .gpdivReg ∨
    p.offset .cpBias = p.offset .gpdivReg ∨ p.offset p.subrangeReg.reg = p.offset .gpdivReg := by
  rw [← Bool.not_eq_true, muxesApart_eq_true]
  tauto

/-- The class takes a mux lock (20 R59). -/
def CmdClass.takesLock (c : CmdClass) : Prop := c = .postdivMux ∨ c = .gpdivMux

theorem classOf_takesLock {i : Instr} :
    (classOf i).takesLock ↔ i ∈ [Instr.postdivSet, .postdivGet, .gpdivSet, .gpdivGet] := by
  rw [CmdClass.takesLock, classOf_eq_postdivMux, classOf_eq_gpdivMux]
  simp [or_assoc]

/-- Two commands of one mux are no fault: the second holds (20 R58). -/
theorem overlapAllowed_self {c : CmdClass} (h : c.takesLock) (p : Params) : overlapAllowed p c c = true := by
  rcases h with rfl | rfl <;> rfl

/-- The overlaps of 20 R58 that start, cases 1 and 3: permitted, and not two commands of one mux. -/
theorem overlapAllowed_of_permitted {p : Params} {c d : CmdClass}
    (h : c = .pure ∨ d = .pure ∨
      (((c = .postdivMux ∧ d = .gpdivMux) ∨ (c = .gpdivMux ∧ d = .postdivMux)) ∧ muxesApart p = true)) :
    overlapAllowed p c d = true ∧ ¬(d = c ∧ c.takesLock) := by
  unfold CmdClass.takesLock
  rcases h with rfl | rfl | ⟨⟨rfl, rfl⟩ | ⟨rfl, rfl⟩, hp⟩
  · simp [overlapAllowed]
  · cases c <;> simp [overlapAllowed]
  · simp [overlapAllowed, hp]
  · simp [overlapAllowed, hp]

/-- The overlaps of 20 R58 that fault, case 4 and case 3 at shared offsets. -/
theorem overlapAllowed_of_unpermitted {p : Params} {c d : CmdClass} (hc : c ≠ .pure) (hd : d ≠ .pure)
    (h : ¬c.takesLock ∨ ¬d.takesLock ∨ ((c = .postdivMux ↔ d = .gpdivMux) ∧ muxesApart p = false)) :
    overlapAllowed p c d = false := by
  unfold CmdClass.takesLock at h
  cases c <;> cases d <;> simp_all [overlapAllowed]

/-! ### Holds -/

theorem Sparse.mem_of_find? {α : Type} {l : List (Nat × α)} {k : Nat} {v : α} (h : Sparse.find? l k = some v) :
    (k, v) ∈ l := by
  induction l with
  | nil => cases h
  | cons e rest ih =>
    obtain ⟨j, w⟩ := e
    simp only [Sparse.find?] at h
    split at h
    · cases h
      subst j
      exact List.mem_cons_self
    · exact List.mem_cons_of_mem _ (ih h)

/-- Another agent's command of the word's mux holds the word's start (20 R58). -/
theorem mustHold_of_sameMux {a b : Nat} {v w : Word} {s : State} (hb : b ≠ a)
    (hv : Sparse.find? s.inProgress b = some v) (hc : classOfWord v = classOfWord w)
    (hm : (classOfWord w).takesLock) : mustHold a w s = true := by
  have ho : othersRun a (classOfWord w) s = true :=
    List.any_eq_true.mpr ⟨(b, v), Sparse.mem_of_find? hv, by simp [hb, hc]⟩
  rcases hm with hm | hm <;> rw [hm] at ho <;> simp [mustHold, hm, ho]

/-- While the locks match, a word's start holds only for another agent's command of the same mux (20 R58, R59). -/
theorem sameMux_of_mustHold {a : Nat} {w : Word} {s : State} (hl : LocksMatch s) (h : mustHold a w s = true) :
    (classOfWord w).takesLock ∧ ∃ e ∈ s.inProgress, classOfWord e.2 = classOfWord w := by
  have hheld {l : Lock} {c : CmdClass} (hm : LockMatches l c s.inProgress)
      (h : l.heldByOther a = true ∨ othersRun a c s = true) : ∃ e ∈ s.inProgress, classOfWord e.2 = c := by
    rcases h with h | h
    · cases l with
      | free => cases h
      | held b =>
        obtain ⟨v, hv, hc⟩ := (hm b).mp rfl
        exact ⟨_, Sparse.mem_of_find? hv, hc⟩
    · obtain ⟨e, he, hc⟩ := List.any_eq_true.mp h
      exact ⟨e, he, by simpa using (Bool.and_eq_true_iff.mp hc).2⟩
  obtain ⟨hp, hg⟩ := locksMatch_iff.mp hl
  unfold mustHold at h
  split at h
  · rename_i hc
    exact ⟨.inl hc, hc ▸ hheld hp (Bool.or_eq_true_iff.mp h)⟩
  · rename_i hc
    exact ⟨.inr hc, hc ▸ hheld hg (Bool.or_eq_true_iff.mp h)⟩
  · cases h

/-- Settles O5: the command in progress is of the word's class, so the start holds. -/
theorem sameMuxStartHolds : Obligations.SameMuxStartHolds := by
  intro s a b v w c d ops rest hf hr hst hs ha hi hp hb hv hd hc hmux
  rw [← classOf_eq_postdivMux, ← classOf_eq_postdivMux, ← classOf_eq_gpdivMux, ← classOf_eq_gpdivMux,
    ← classOfWord_of_decode hc, ← classOfWord_of_decode hd] at hmux
  have hold : mustHold a w (s.withSchedule rest) = true := by
    rcases hmux with ⟨hcw, hdv⟩ | ⟨hcw, hdv⟩
    · exact mustHold_of_sameMux hb hv (hdv.trans hcw.symm) (.inl hcw)
    · exact mustHold_of_sameMux hb hv (hdv.trans hcw.symm) (.inr hcw)
  rw [step_hostOp hf hr hst hs ha hi hp, hostOp, writeCmd, if_pos hold]
  rfl

/-! ### Starts -/

/-- A start that does not hold uses up the issuing operation and starts the command. -/
theorem step_start {s : State} {a : Nat} {w : Word} {ops : List HostOp} {rest : List Turn} (hf : s.fault = none)
    (hr : s.refused = none) (hst : s.started = true) (hs : s.schedule = .agent a :: rest)
    (ha : agentExists s.cfg a = true) (hi : Sparse.find? s.inProgress a = none)
    (hp : (s.host a).program = .writeCmd w :: ops ∨
      ((s.host a).program = .writeCmdIfOk w :: ops ∧ (s.iface a).err = 0)) (hm : mustHold a w s = false) :
    step s = .next (startCommand a w ((s.withSchedule rest).setProgram a ops)) := by
  have hw : writeCmd a w ops (s.withSchedule rest) = startCommand a w ((s.withSchedule rest).setProgram a ops) := by
    rw [writeCmd, if_neg (show ¬ mustHold a w (s.withSchedule rest) = true by rw [Bool.not_eq_true]; exact hm)]
  rcases hp with hp | ⟨hp, he⟩
  · rw [step_hostOp hf hr hst hs ha hi hp, hostOp, hw]
  · rw [step_hostOp hf hr hst hs ha hi hp, hostOp, if_pos (show ((s.withSchedule rest).iface a).err = 0 from he), hw]

/-- The lock a start takes is its class's and no other (20 R59). -/
theorem takeLock_eq (a : Nat) (c : CmdClass) (s : State) : takeLock a c s =
    { s with postdivLock := if c = .postdivMux then .held a else s.postdivLock
             gpdivLock := if c = .gpdivMux then .held a else s.gpdivLock } := by
  cases c <;> rfl

/-- All that a start changes when no overlap stands against it (20 R57 to R59, 10 R22). -/
theorem startCommand_eq {a : Nat} {w : Word} {s : State} (h : overlapFault a w s = false) : startCommand a w s =
    { s with ifaces := (s.setIface a (s.iface a).cleared).ifaces
             history := s.history ++ [.cmdStart a (opField w)]
             inProgress := Sparse.insert a w s.inProgress
             postdivLock := if classOfWord w = .postdivMux then .held a else s.postdivLock
             gpdivLock := if classOfWord w = .gpdivMux then .held a else s.gpdivLock } := by
  rw [startCommand, h, takeLock_eq]
  rfl

/-- Settles O4: with nothing in progress and both locks free no start holds or faults. -/
theorem startEntersCommand : Obligations.StartEntersCommand := by
  intro s a w i ops rest hf hr hst hn hpl hgl hs ha hp hi
  have hm : mustHold a w s = false := by
    unfold mustHold othersRun
    rw [hn, hpl, hgl]
    split <;> rfl
  have ho : overlapFault a w ((s.withSchedule rest).setProgram a ops) = false := by
    show List.any s.inProgress _ = false
    rw [hn]; rfl
  refine ⟨_, step_start hf hr hst hs ha (by rw [hn]; rfl) hp hm, ?_⟩
  rw [startCommand_eq ho, classOfWord_of_decode hi, opField_of_decode hi]
  refine ⟨?_, rfl, fun b hb => ⟨State.iface_setIface_other hb _ _, State.host_setHost_other hb _ _⟩,
    State.iface_setIface_same _ _ _, State.host_setHost_same _ _ _, ?_, ?_, ⟨⟨rfl, rfl, rfl, rfl, rfl⟩, fun _ => rfl, rfl⟩,
    rfl, rfl, rfl, rfl, hf, hr, rfl⟩
  · show Sparse.insert a w s.inProgress = _
    rw [hn]; rfl
  · show (if classOf i = .postdivMux then Lock.held a else s.postdivLock) = _
    simp [classOf_eq_postdivMux, hpl]
  · show (if classOf i = .gpdivMux then Lock.held a else s.gpdivLock) = _
    simp [classOf_eq_gpdivMux, hgl]

/-! ### Overlaps -/

/-- Whether some overlap of a start is not permitted (20 R58). -/
theorem overlapFault_eq_false {a : Nat} {w : Word} {s : State}
    (h : ∀ e ∈ s.inProgress, overlapAllowed s.cfg (classOfWord w) (classOfWord e.2) = true) :
    overlapFault a w s = false := by
  rw [overlapFault, List.any_eq_false]
  intro e he
  simp [h e he]

theorem overlapFault_eq_true {a : Nat} {w : Word} {s : State} {e : Nat × Word} (he : e ∈ s.inProgress) (ha : e.1 ≠ a)
    (h : overlapAllowed s.cfg (classOfWord w) (classOfWord e.2) = false) : overlapFault a w s = true :=
  List.any_eq_true.mpr ⟨e, he, by simp [ha, h]⟩

/-- Settles O6: the overlap is of none of the permitted cases, two commands of one mux among them. -/
theorem unpermittedOverlapFaults : Obligations.UnpermittedOverlapFaults := by
  intro s a b v w c d ops rest hf hr hst hs ha hi hp hb hn hd hc hl hcp hdp hcase
  rw [← classOf_eq_pure, ← classOfWord_of_decode hc] at hcp
  rw [← classOf_eq_pure, ← classOfWord_of_decode hd] at hdp
  rw [← classOf_takesLock, ← classOf_takesLock, ← classOf_eq_postdivMux, ← classOf_eq_gpdivMux,
    ← classOfWord_of_decode hc, ← classOfWord_of_decode hd, ← muxesApart_eq_false] at hcase
  have hdeny := overlapAllowed_of_unpermitted hcp hdp hcase
  have hm : mustHold a w s = false := by
    rw [← Bool.not_eq_true]
    intro h
    obtain ⟨hlock, e, he, hsame⟩ := sameMux_of_mustHold hl h
    obtain rfl : e = (b, v) := by simpa [hn] using he
    rw [show classOfWord v = classOfWord w from hsame, overlapAllowed_self hlock] at hdeny
    cases hdeny
  have ho : overlapFault a w ((s.withSchedule rest).setProgram a ops) = true :=
    overlapFault_eq_true (e := (b, v)) (s := (s.withSchedule rest).setProgram a ops)
      (show (b, v) ∈ s.inProgress by simp [hn]) hb hdeny
  refine ⟨_, step_start hf hr hst hs ha hi (.inl hp) hm, ?_⟩
  rw [startCommand, if_pos ho]
  exact ⟨State.host_setHost_same _ _ _, fun _ hne => State.host_setHost_other hne _ _, rfl⟩

/-- Settles O7: every overlap is permitted, and none is of two commands of one mux. -/
theorem permittedOverlapStarts : Obligations.PermittedOverlapStarts := by
  intro s a w c ops rest hf hr hst hs ha hi hp hc hl hall
  have hcase : ∀ e ∈ s.inProgress, overlapAllowed s.cfg (classOfWord w) (classOfWord e.2) = true ∧
      ¬(classOfWord e.2 = classOfWord w ∧ (classOfWord w).takesLock) := by
    intro e he
    obtain ⟨d, hd, h⟩ := hall e he
    rw [← classOf_eq_pure, ← classOf_eq_pure, ← classOf_eq_postdivMux, ← classOf_eq_postdivMux, ← classOf_eq_gpdivMux,
      ← classOf_eq_gpdivMux, ← classOfWord_of_decode hc, ← classOfWord_of_decode hd, ← muxesApart_eq_true] at h
    exact overlapAllowed_of_permitted h
  have hm : mustHold a w s = false := by
    rw [← Bool.not_eq_true]
    intro h
    obtain ⟨hlock, e, he, hsame⟩ := sameMux_of_mustHold hl h
    exact (hcase e he).2 ⟨hsame, hlock⟩
  have ho : overlapFault a w ((s.withSchedule rest).setProgram a ops) = false :=
    overlapFault_eq_false (s := (s.withSchedule rest).setProgram a ops) fun e he => (hcase e he).1
  refine ⟨_, step_start hf hr hst hs ha hi (.inl hp) hm, ?_⟩
  rw [startCommand_eq ho, opField_of_decode hc]
  exact ⟨hf, Sparse.find?_insert_same _ _ _, fun _ hb => Sparse.find?_insert_other hb _ _, rfl,
    ⟨rfl, rfl, rfl, rfl, rfl⟩, fun _ => rfl, rfl⟩

end Sys2Proof.Machine

/-! PROOFS. The encoding: a word's two fields, decode and encode, and the assembler (30 R62 to R65, R69, R70). -/

namespace Sys2Proof

/-! ### The fields of a word -/

/-- The low byte of a word (30 R62). -/
theorem opField_eq (w : Word) : opField w = BitVec.ofNat 8 w.toNat :=
  BitVec.eq_of_toNat_eq (by simp [opField])

/-- The reserved field is zero exactly when the word is below 256 (30 R62). -/
theorem rsvField_eq_zero {w : Word} : rsvField w = 0 ↔ w.toNat / 256 = 0 := by
  have hlt := w.isLt
  have hrsv : (rsvField w).toNat = w.toNat / 256 % 2 ^ 24 := by simp [rsvField, Nat.shiftRight_eq_div_pow]
  rw [← BitVec.toNat_inj, hrsv]
  change _ = 0 ↔ _
  omega

theorem toNat_encode (i : Instr) : (encode i).toNat = (opcode i).toNat :=
  BitVec.toNat_setWidth_of_le (by decide)

/-- A word is a command's exactly when its reserved field is zero and its low byte is the opcode (30 R62). -/
theorem eq_encode_iff {w : Word} {i : Instr} : w = encode i ↔ w.toNat / 256 = 0 ∧ opField w = opcode i := by
  have hop := (opcode i).isLt
  rw [opField_eq, ← BitVec.toNat_inj, ← BitVec.toNat_inj, toNat_encode, BitVec.toNat_ofNat]
  omega

/-! ### Decode and encode -/

theorem decodeOp_opcode (i : Instr) : decodeOp (opcode i) = .ok i := by
  cases i <;> rfl

theorem decodeOp_eq_ok {op : Byte} {i : Instr} : decodeOp op = .ok i ↔ op = opcode i :=
  ⟨fun h => (Machine.opcode_of_decodeOp h).symm, fun h => h ▸ decodeOp_opcode i⟩

/-- An opcode is a command's or is refused by its own name (30 R65). -/
theorem decodeOp_cases (op : Byte) : (∃ i, decodeOp op = .ok i) ∨ decodeOp op = .error (.reservedOpcode op) := by
  unfold decodeOp
  split <;> simp

theorem decodeOp_eq_error {op : Byte} (h : ∀ i, op ≠ opcode i) : decodeOp op = .error (.reservedOpcode op) :=
  (decodeOp_cases op).resolve_left fun ⟨i, hi⟩ => h i (decodeOp_eq_ok.mp hi)

theorem decode_of_reserved {w : Word} (h : w.toNat / 256 ≠ 0) : decode w = .error .reservedBits :=
  if_neg (mt rsvField_eq_zero.mp h)

theorem decode_of_not_reserved {w : Word} (h : w.toNat / 256 = 0) : decode w = decodeOp (opField w) :=
  if_pos (rsvField_eq_zero.mpr h)

/-- A word decodes to a command exactly when it is that command's word (30 R62, R64, R65). -/
theorem decode_eq_ok {w : Word} {i : Instr} : decode w = .ok i ↔ w = encode i := by
  rw [eq_encode_iff]
  by_cases h : w.toNat / 256 = 0
  · rw [decode_of_not_reserved h, decodeOp_eq_ok]
    exact (and_iff_right h).symm
  · simp [decode_of_reserved h, h]

@[simp] theorem decode_encode (i : Instr) : decode (encode i) = .ok i :=
  decode_eq_ok.mpr rfl

/-- Settles O2: a word below 256 is its low byte, and the opcode table read backwards is the decoder's. -/
theorem decodeEncodeAgree : Obligations.DecodeEncodeAgree := by
  refine ⟨fun i _ => decode_encode i, fun _ _ => decode_eq_ok, fun _ => decode_of_reserved, fun w h hne => ?_⟩
  rw [decode_of_not_reserved h, ← opField_eq]
  exact decodeOp_eq_error fun i hi => hne i (eq_encode_iff.mpr ⟨h, hi⟩)

/-- Settles O1: each word is the encoding of its row's command. -/
theorem decodesSpecWords : Obligations.DecodesSpecWords :=
  ⟨decode_encode .multX100, decode_encode .gcd, decode_encode .plan, decode_encode .sscCompute,
    decode_encode .roundRate, decode_encode .setRate, decode_encode .recalcRate, decode_encode .prepare,
    decode_encode .unprepare, decode_encode .enable, decode_encode .isEnabled, decode_encode .postdivSet,
    decode_encode .postdivGet, decode_encode .gpdivSet, decode_encode .gpdivGet, decode_encode .pixdivRoundRate,
    decode_encode .pixdivSetRate, decode_encode .pixdivRecalcRate, decode_encode .save, decode_encode .restore⟩

/-- Settles O11: each line is the operations of its commands, whose words are their encodings. -/
theorem assemblerExpands : Obligations.AssemblerExpands :=
  ⟨fun _ => rfl, rfl, fun _ => rfl, fun _ => rfl⟩

end Sys2Proof

/-! PROOFS. Illegal words: a start and an end without effect (30 R65, 60 R206). -/

namespace Sys2Proof.Machine

/-! ### Words that decode to no command -/

/-- The opcode column of 30 R64. -/
def opcodeColumn : List Nat :=
  [0x01, 0x02, 0x03, 0x04, 0x10, 0x11, 0x12, 0x20, 0x21, 0x22, 0x23, 0x30, 0x31, 0x32, 0x33, 0x34, 0x35, 0x36, 0x40,
    0x41]

theorem opcode_mem_opcodeColumn (i : Instr) : (opcode i).toNat ∈ opcodeColumn := by
  cases i <;> decide

/-- A reserved bit, or an opcode outside the table, makes a word illegal (30 R65). -/
theorem decode_error_of_illegal {w : Word} (h : w.toNat / 256 ≠ 0 ∨ w.toNat % 256 ∉ opcodeColumn) :
    ∃ e, decode w = .error e := by
  cases hd : decode w with
  | error e => exact ⟨e, rfl⟩
  | ok i =>
    obtain ⟨hz, hop⟩ := eq_encode_iff.mp (decode_eq_ok.mp hd)
    have hmod : w.toNat % 256 = (opcode i).toNat := by rw [← hop, opField_eq, BitVec.toNat_ofNat]
    exact (h.resolve_left (not_not_intro hz) (hmod ▸ opcode_mem_opcodeColumn i)).elim

/-- An illegal word takes no lock (log entry 15). -/
theorem classOfWord_of_error {w : Word} {e : DecodeError} (h : decode w = .error e) : classOfWord w = .other := by
  rw [classOfWord, h]

/-! ### Starts and ends with nothing else in progress -/

/-- With nothing in progress matching locks are free (20 R59). -/
theorem LocksMatch.free {s : State} (h : LocksMatch s) (hi : s.inProgress = []) :
    s.postdivLock = .free ∧ s.gpdivLock = .free := by
  have hfree {l : Lock} {c : CmdClass} (hm : LockMatches l c s.inProgress) : l = .free := by
    cases l with
    | free => rfl
    | held a => simpa [hi, Sparse.find?] using (hm a).mp rfl
  obtain ⟨hp, hg⟩ := locksMatch_iff.mp h
  exact ⟨hfree hp, hfree hg⟩

/-- The state after agent `a` has issued an illegal word: in progress, the valid bits cleared, no lock taken (20 R57,
10 R22, log entry 15). -/
def illegalStarted (a : Nat) (w : Word) (ops : List HostOp) (rest : List Turn) (s : State) : State :=
  ((((s.withSchedule rest).setProgram a ops).setIface a (s.iface a).cleared).record (.cmdStart a (opField w))).enter a w

theorem illegalStarted_iface_same (a : Nat) (w : Word) (ops : List HostOp) (rest : List Turn) (s : State) :
    (illegalStarted a w ops rest s).iface a = (s.iface a).cleared :=
  State.iface_setIface_same _ _ _

theorem illegalStarted_iface_other {a b : Nat} (hb : b ≠ a) (w : Word) (ops : List HostOp) (rest : List Turn)
    (s : State) : (illegalStarted a w ops rest s).iface b = s.iface b :=
  State.iface_setIface_other hb _ _

/-- With nothing in progress an illegal word starts: it neither holds nor faults. -/
theorem step_startIllegal {s : State} {a : Nat} {w : Word} {e : DecodeError} {ops : List HostOp} {rest : List Turn}
    (hf : s.fault = none) (hr : s.refused = none) (hst : s.started = true) (hs : s.schedule = .agent a :: rest)
    (ha : agentExists s.cfg a = true) (hn : s.inProgress = []) (hp : (s.host a).program = .writeCmd w :: ops)
    (he : decode w = .error e) : step s = .next (illegalStarted a w ops rest s) := by
  have hc := classOfWord_of_error he
  have hm : mustHold a w s = false := by rw [mustHold, hc]
  have ho : overlapFault a w ((s.withSchedule rest).setProgram a ops) = false := by
    change List.any s.inProgress _ = false
    rw [hn]; rfl
  rw [step_start hf hr hst hs ha (by rw [hn]; rfl) (.inl hp) hm, startCommand, ho, hc]
  rfl

/-- An illegal word in progress ends at its agent's next turn (30 R65). -/
theorem step_endIllegal {s : State} {a : Nat} {w : Word} {e : DecodeError} {rest : List Turn} (hf : s.fault = none)
    (hr : s.refused = none) (hc : s.constructed = true) (hs : s.schedule = .agent a :: rest)
    (ha : agentExists s.cfg a = true) (hw : Sparse.find? s.inProgress a = some w) (he : decode w = .error e) :
    step s = .next (finishCommand (opField w) .illegalCommand ((s.withSchedule rest).withTurn a)) := by
  rw [step_eq hf hr]
  simp [nextMove, hs, State.started, hc, ha, agentMove, hw, he, finishIllegal, State.withSchedule, State.withTurn]

/-- No RES register is valid once the valid bits are cleared (10 R22). -/
theorem Iface.cleared_resv (f : Iface) (n : Fin 6) : f.cleared.resv[n.val] = false := by
  fin_cases n <;> rfl

/-- Settles O9: an illegal word is of no class that holds or locks, and its end writes ERR alone. -/
theorem illegalWordStartsAndEnds : Obligations.IllegalWordStartsAndEnds := by
  intro s a w ops rest ⟨hf, hr, hc⟩ hn hl hs ha hp hw
  obtain ⟨e, he⟩ := decode_error_of_illegal hw
  obtain ⟨hpl, hgl⟩ := hl.free hn
  have hst : s.started = true := by rw [State.started, hc, Bool.true_or]
  have hin : Sparse.insert a w s.inProgress = [(a, w)] := by rw [hn]; rfl
  have hsame := illegalStarted_iface_same a w ops (.agent a :: rest) s
  obtain ⟨_, _, ⟨hother, harg0, harg1, herr, _, hres⟩, hhist⟩ := finishCommand_ends (opField w) .illegalCommand
    (((illegalStarted a w ops (.agent a :: rest) s).withSchedule rest).withTurn a)
  refine ⟨_, _, opField w, step_startIllegal hf hr hst hs ha hn hp he,
    step_endIllegal hf hr hc rfl ha (Sparse.find?_insert_same _ _ _) he, fun n => ?_, hin, herr, fun n => ?_, ?_, ?_,
    fun b hb => ?_, ?_, ?_, ?_, ?_, ⟨⟨rfl, rfl, rfl, rfl, rfl⟩, fun _ => rfl, rfl⟩, hf, hr⟩
  · rw [hsame]
    exact Iface.cleared_resv _ n
  · exact (hres n (by simp)).2.trans (hsame ▸ Iface.cleared_resv _ n)
  · exact harg0.trans (congrArg Iface.arg0 hsame :)
  · exact harg1.trans (congrArg Iface.arg1 hsame :)
  · exact (hother b hb).trans (illegalStarted_iface_other hb w ops _ s)
  · exact hhist.trans (List.append_assoc _ _ _)
  · change s.postdivLock.releaseBy a = _
    rw [hpl]; rfl
  · change s.gpdivLock.releaseBy a = _
    rw [hgl]; rfl
  · change Sparse.erase a (Sparse.insert a w s.inProgress) = []
    simp [hin, Sparse.erase]

end Sys2Proof.Machine

/-! PROOFS. The FrequencyPlanner: MULT_X100, GCD, PLAN, the band lookups and the loop ratio (40_planner). -/

namespace Sys2Proof.Machine

/-! ### Commands that only give results -/

/-- A ready block completes a command whose body writes results alone, and leaves all else (60 R200.1). -/
theorem exec_results {i : Instr} {s : State} {e : ErrCode} {rs : List (Fin 6 × Nat)} (hs : Ready s)
    (hb : bodyOf i s = .completes e (s.setAll rs)) (nd : (rs.map Prod.fst).Nodup) :
    ∃ t, exec i s = .next t ∧ Ends (opcode i) e rs [] s t ∧ Untouched s t :=
  have ⟨hx, he⟩ := exec_completes hs hb (.refl s) nd
  ⟨_, hx, he, finished_untouched _ _ rs s⟩

/-! ### MULT_X100 -/

/-- The quarter of a remainder is its whole number of quarter steps. -/
theorem quarterOf_eq_div {r : Nat} (h : r < 19200000) : quarterOf r = r / 4800000 := by
  unfold quarterOf
  rw [show quarterStep = 4800000 from rfl]
  split_ifs <;> omega

/-- `MultX100` by whole reference clocks and whole quarter steps (40 R87). -/
theorem multX100_eq (v : Nat) : multX100 v =
    (100 * (v / 19200000) + 25 * (v % 19200000 / 4800000),
      v % 19200000 - v % 19200000 / 4800000 * 4800000) := by
  rw [← quarterOf_eq_div (Nat.mod_lt v (by decide))]
  rfl

/-- Settles O22: the witnesses are quotient, remainder and the remainder's whole quarter steps. -/
theorem multX100Result : Obligations.MultX100Result := by
  intro s hs
  obtain ⟨t, hx, he, hu⟩ := exec_results (i := .multX100) hs rfl
    (rs := [(0, (multX100 s.arg0).1), (1, (multX100 s.arg0).2)]) (by simp)
  rw [multX100_eq] at he
  exact ⟨t, s.arg0 / 19200000, s.arg0 % 19200000, s.arg0 % 19200000 / 4800000, by omega, by omega, by omega, by omega,
    by omega, hx, he, hu⟩

/-! ### GCD -/

/-- One turn of Euclid's loop keeps the greatest common divisor, and `b` falls, so `fuel` above `b` suffices. -/
theorem gcdLoop_eq_gcd {fuel b : Nat} (h : b < fuel) (a : Nat) : gcdLoop fuel a b = Nat.gcd a b := by
  induction fuel generalizing a b with
  | zero => omega
  | succ n ih =>
    rw [gcdLoop]
    split_ifs with hb
    · rw [hb, Nat.gcd_zero_right]
    · have hlt : a % b < b := Nat.mod_lt a (Nat.pos_of_ne_zero hb)
      rw [ih (by omega), Nat.gcd_comm, ← Nat.gcd_rec, Nat.gcd_comm]

theorem gcd_eq_gcd (a b : Nat) : gcd a b = Nat.gcd a b := gcdLoop_eq_gcd b.lt_succ_self a

/-- Settles O23: Euclid's loop has turns enough. -/
theorem gcdResult : Obligations.GcdResult := by
  intro s hs
  rw [← gcd_eq_gcd]
  exact exec_results (i := .gcd) (rs := [(0, gcd s.arg0 s.arg1)]) hs rfl (by simp)

/-! ### The loop ratio -/

theorem loopDiv_eq (t : Nat) : loopDiv t = (4 * t + 9600000) / 19200000 % 4096 := rfl

theorem loopDiv_lt (t : Nat) : loopDiv t < 4096 := Nat.mod_lt _ (by decide)

theorem loopLow_eq_mod (r : Nat) : loopLow r = r % 64 := Nat.and_two_pow_sub_one_eq_mod r 6

/-- The high field of a 12-bit ratio needs no mask. -/
theorem loopHigh_eq_div {r : Nat} (h : r < 4096) : loopHigh r = r / 64 := by
  have hmask : loopHigh r = (r >>> 6) % 64 := Nat.and_two_pow_sub_one_eq_mod _ 6
  rw [hmask, Nat.shiftRight_eq_div_pow, Nat.mod_eq_of_lt (by omega)]

/-- The two fields of a 12-bit ratio give its multiple of the quarter step (40 R90, 43 R156). -/
theorem loopRate_fields {r : Nat} (h : r < 4096) : loopRate (loopLow r) (loopHigh r) = 4800000 * r := by
  rw [loopLow_eq_mod, loopHigh_eq_div h, loopRate_eq (Nat.mod_lt r (by decide))]
  omega

/-- Settles O27: below the bound the mask changes nothing and rounding errs by half a quarter step; from the bound on
the masked ratio is at most 4095, whose rate is 19656000000. -/
theorem loopRatioReproducesTarget : Obligations.LoopRatioReproducesTarget := by
  intro t
  have hlt := loopDiv_lt t
  rw [loopRate_fields hlt]
  refine ⟨fun ht => ?_, fun ht => ?_⟩
  · have hfits : (4 * t + 9600000) / 19200000 < 4096 := by omega
    rw [loopDiv_eq, Nat.mod_eq_of_lt hfits]
    omega
  · by_cases hbound : t = 19658400000
    · subst hbound
      decide
    · omega

/-! ### PLAN -/

/-- The six results of a plan, by register (40 R93). -/
def FreqPlan.results (q : FreqPlan) : List (Fin 6 × Nat) :=
  [(0, q.hs.toNat), (1, q.osc.toNat), (2, q.ratio), (3, q.fsm), (4, loopLow q.ratio), (5, loopHigh q.ratio)]

/-- PLAN with an index in range writes its plan's results (40 R93). -/
theorem planBody_inRange {s : State} (h : s.arg1 ≤ 5) :
    planBody s = .completes .ok (s.setAll (planFor s.cfg s.arg0 s.arg1).results) := by
  rw [planBody, if_neg (Nat.not_lt.mpr h), State.setPlan_eq, FreqPlan.results]

theorem oscTarget_toNat (p : Params) (m : Nat) : (oscTarget p m).toNat =
    if m ≤ 1000 then p.oscCodeA.toNat else if m ≤ 1500 then p.oscCodeB.toNat else 0 := by
  unfold oscTarget
  split_ifs <;> rfl

/-- Settles O24: the line rate is a quotient by a power of two, and the two fields split the ratio. -/
theorem planResult : Obligations.PlanResult := by
  intro s hs hidx
  obtain ⟨t, hx, he, hu⟩ := exec_results (i := .plan) hs (planBody_inRange hidx) (by simp [FreqPlan.results])
  simp only [FreqPlan.results, planFor, loopLow_eq_mod, loopHigh_eq_div (loopDiv_lt _), oscTarget_toNat, lineRate,
    Nat.shiftRight_eq_div_pow] at he
  simp only [loopDiv_eq, mhz, fsmOverride] at he
  exact ⟨t, hx, hu, he⟩

/-! ### Band lookups -/

theorem bandFrom_of_le {x : Band} {b : Nat} (h : x.lo ≤ b) (c : Byte) (rest : List Band) :
    bandFrom c (x :: rest) b = bandFrom x.code rest b := if_pos h

/-- A scan stops at a band whose lower bound is not reached, or at the end of the table. -/
theorem bandFrom_stops {t : List Band} {b : Nat} (h : ∀ h' : 0 < t.length, b < t[0].lo) (c : Byte) :
    bandFrom c t b = c := by
  cases t with
  | nil => rfl
  | cons x rest => exact if_neg (Nat.not_le.mpr (h (Nat.zero_lt_succ _)))

/-- The lower bounds rise, so a scan passes every band up to the one the input falls in, and stops behind it. -/
theorem bandFrom_of_band {t : List Band} {b k : Nat} (hr : t.Pairwise (fun x y => x.lo < y.lo)) (hk : k < t.length)
    (hlo : t[k].lo ≤ b) (hhi : ∀ h' : k + 1 < t.length, b < t[k + 1].lo) (c : Byte) :
    bandFrom c t b = t[k].code := by
  induction t generalizing k c with
  | nil => exact absurd hk (Nat.not_lt_zero k)
  | cons x rest ih =>
    obtain ⟨hx, hr⟩ := List.pairwise_cons.mp hr
    cases k with
    | zero =>
      have hreached : x.lo ≤ b := hlo
      rw [bandFrom_of_le hreached]
      exact bandFrom_stops (fun h' => hhi (Nat.succ_lt_succ h')) _
    | succ k =>
      have hk' : k < rest.length := Nat.lt_of_succ_lt_succ hk
      have hpast : x.lo < rest[k].lo := hx _ (List.getElem_mem hk')
      rw [bandFrom_of_le (hpast.le.trans hlo)]
      exact ih hr hk' hlo (fun h' => hhi (Nat.succ_lt_succ h')) _

/-- A lookup takes the code of the band its input falls in (40 R85, 42 R123). -/
theorem bandLookup_of_band {t : List Band} {b k : Nat} (hr : bandsRise t = true) (hk : k < t.length)
    (hlo : t[k].lo ≤ b) (hhi : ∀ h' : k + 1 < t.length, b < t[k + 1].lo) : bandLookup t b = t[k].code := by
  cases t with
  | nil => exact absurd hk (Nat.not_lt_zero k)
  | cons x rest => exact bandFrom_of_band (of_decide_eq_true hr) hk hlo hhi _

/-- An input below the table takes its first code (40 R85, 42 R123). -/
theorem bandLookup_below {x : Band} {b : Nat} (h : b < x.lo) (rest : List Band) : bandLookup (x :: rest) b = x.code :=
  bandFrom_stops (fun _ => h) _

/-- The worked band stands at some place of a table that has it (40 R83). -/
theorem exists_workedBand {t : List Band} (h : hasWorkedBand t = true) : ∃ k, ∃ h' : k + 1 < t.length,
    t[k].lo = 2400 ∧ t[k + 1].lo = 2450 ∧ t[k].code = 0x47 := by
  induction t using hasWorkedBand.induct with
  | case1 x y rest ih =>
    simp only [hasWorkedBand, Bool.or_eq_true, Bool.and_eq_true, decide_eq_true_eq] at h
    obtain ⟨⟨hlo, hhi⟩, hc⟩ | h := h
    · exact ⟨0, Nat.succ_lt_succ (Nat.zero_lt_succ _), hlo, hhi, hc⟩
    · obtain ⟨k, h', hband⟩ := ih h
      exact ⟨k + 1, Nat.succ_lt_succ h', hband⟩
  | case2 t hne => simp [hasWorkedBand] at h

/-- What a well-formed configuration says of HSFREQ_TABLE (40 R83). -/
theorem wf_hsfreqTable {p : Params} (h : p.wellFormed = true) :
    bandsRise p.hsfreqTable = true ∧ p.hsfreqTable.head?.map Band.lo = some 80 ∧
    hasWorkedBand p.hsfreqTable = true := by
  simp only [Params.wellFormed, Params.hsfreqOk, Bool.and_eq_true, decide_eq_true_eq] at h
  tauto

theorem wf_subrangeTable_rises {p : Params} (h : p.wellFormed = true) :
    bandsRise p.subrangeTable = true := by
  simp only [Params.wellFormed, Params.subrangeOk, Bool.and_eq_true] at h
  tauto

/-- Settles O26: each clause is a lookup below the table or in the band of an index, the worked band among them. -/
theorem bandLookups : Obligations.BandLookups := by
  intro p hw
  obtain ⟨hrise, hfirst, hworked⟩ := wf_hsfreqTable hw
  refine ⟨fun b hb => ?_, fun b k hk hlo hhi => bandLookup_of_band hrise hk hlo hhi, fun b hlo hhi => ?_,
    fun b x rest ht hb => ?_, fun b k hk hlo hhi =>
      bandLookup_of_band (wf_subrangeTable_rises hw) hk hlo hhi⟩
  · obtain ⟨x, hx, hx80⟩ := Option.map_eq_some_iff.mp hfirst
    obtain ⟨rest, ht⟩ := List.head?_eq_some_iff.mp hx
    rw [rangeSelect, ht, bandLookup_below (hx80 ▸ hb)]
    rfl
  · obtain ⟨k, hk, h2400, h2450, hcode⟩ := exists_workedBand hworked
    rw [← hcode]
    exact bandLookup_of_band hrise (Nat.lt_of_succ_lt hk) (h2400 ▸ hlo) (fun _ => h2450 ▸ hhi)
  · rw [subRange, ht, bandLookup_below hb]

end Sys2Proof.Machine

/-! PROOFS. The spread-spectrum parameters: SSC_COMPUTE and the exact domain of its formulas (41_ssc). -/

namespace Sys2Proof.Machine

/-! ### The fractional denominator -/

theorem sscFracDen_eq (v : Nat) : sscFracDen v = 19200000 / Nat.gcd v 19200000 := by
  rw [sscFracDen, gcd_eq_gcd, Config.refClkHz]

/-- Settles O30: the greatest common divisor divides the reference clock, which is not 0. -/
theorem fracDenDivides : Obligations.FracDenDivides := by
  refine ⟨fun v => ?_, by rw [sscFracDen_eq, Nat.gcd_zero_left]⟩
  have hdvd : Nat.gcd v 19200000 ∣ 19200000 := Nat.gcd_dvd_right v 19200000
  rw [sscFracDen_eq]
  exact ⟨Nat.div_mul_cancel hdvd,
    Nat.div_pos (Nat.le_of_dvd (by decide) hdvd) (Nat.gcd_pos_of_pos_right v (by decide)), Nat.div_le_self _ _⟩

/-! ### The exact domain -/

theorem sscPeak_eq (m : Nat) : sscPeak m = m * 5000 * 2 ^ 17 / 100000000 := by
  rw [sscPeak, Nat.div_div_eq_div_mul]
  rfl

/-- Inside the exact domain the multiplier stays below the bound from which its products leave 64 bits (41 R107). -/
theorem multX100_le {v : Nat} (h : v < 5404319539200000) :
    (multX100 v).1 ≤ 28147497575 ∧ (multX100 v).2 < 4800000 := by
  rw [multX100_eq]
  omega

/-- Settles O29, from the bounds on the multiplier, the remainder and the denominator. -/
theorem sscProductsFit : Obligations.SscProductsFit := by
  intro v hv
  obtain ⟨hm, hrem⟩ := multX100_le hv
  have hr2 : sscR2 (multX100 v).2 < 19200000 := Nat.mod_lt _ (by decide)
  obtain ⟨_, _, hden⟩ := fracDenDivides.1 v
  have hprod : sscR2 (multX100 v).2 * sscFracDen v < 19200000 * 19200000 :=
    Nat.mul_lt_mul_of_lt_of_le hr2 hden (by decide)
  rw [sscPeak_eq]
  omega

/-! ### SSC_COMPUTE -/

/-- The six results of SSC_COMPUTE, by register (41 R111). -/
def SscPlan.results (q : SscPlan) : List (Fin 6 × Nat) :=
  [(0, q.peak), (1, q.step), (2, q.mint), (3, q.fden), (4, q.fquot), (5, q.frem)]

/-- The formulas of 41 R101 to R106 by whole reference clocks `q`, whole quarter steps `k` and the remainder. -/
theorem sscCompute_eq (v : Nat) :
    let q := v / 19200000
    let k := v % 19200000 / 4800000
    let peak := (100 * q + 25 * k) * 5000 * 2 ^ 17 / 100000000
    let fden := 19200000 / Nat.gcd v 19200000
    sscCompute v = ⟨peak, peak * 31500 * 2 ^ 10 / 19200000, (4 * q + k + (2 ^ 64 - 32)) % 2 ^ 64, fden,
      v % 4800000 * 2 ^ 17 / 19200000, v % 4800000 * 2 ^ 17 % 19200000 * fden / 19200000⟩ := by
  intro q k peak fden
  have hm : multX100 v = (100 * q + 25 * k, v % 4800000) := by
    rw [multX100_eq, Prod.mk.injEq]
    omega
  have hmint : (100 * q + 25 * k) * 4 / 100 = 4 * q + k := by omega
  simp only [sscCompute, hm, sscPeak_eq, sscFracDen_eq, sscMint, hmint]
  rfl

theorem sscOutOfDomain_iff (v : Nat) : sscOutOfDomain v = true ↔ 5404319539200000 ≤ v := decide_eq_true_iff

/-- Inside the exact domain SSC_COMPUTE writes the results of its plan (41 R111). -/
theorem bodyOf_sscCompute {s : State} (h : s.arg0 < 5404319539200000) :
    bodyOf .sscCompute s = .completes .ok (s.setAll (sscCompute s.arg0).results) :=
  if_neg (fun ho => Nat.not_le.mpr h ((sscOutOfDomain_iff _).mp ho))

/-- Settles O28: the body writes its plan, whose six values are the formulas. -/
theorem sscComputeResult : Obligations.SscComputeResult := by
  intro s hs hdom
  obtain ⟨t, hx, he, hu⟩ := exec_results hs (bodyOf_sscCompute hdom) (by simp [SscPlan.results])
  rw [sscCompute_eq] at he
  exact ⟨t, hx, hu, he⟩

/-! ### Refusals -/

/-- A ready block whose command refuses gets the mark and nothing else (60 R200.3). -/
theorem exec_refuses {i : Instr} {s : State} {r : Refusal} (hs : Ready s) (hb : bodyOf i s = .refuses r) :
    exec i s = .next (s.markRefused r) := by
  obtain ⟨hf, hr, hc⟩ := hs
  simp [exec_eq, runCommand, State.stuck?_eq_none.mpr ⟨hf, hr⟩, hc, hb]

/-- The rate transaction is refused exactly outside the domain with SSC enabled (43 R155). -/
theorem rateRefused_iff {p : Params} {v : Nat} :
    rateRefused p v = true ↔ 5404319539200000 ≤ v ∧ p.sscEnabled = true := by
  rw [rateRefused, Bool.and_eq_true, sscOutOfDomain_iff]

/-- Settles O31: each of the three bodies looks at the rate before it does anything else. -/
theorem outOfDomainRefused : Obligations.OutOfDomainRefused := by
  intro s hs
  refine ⟨fun hv => exec_refuses hs ?_, fun hssc hv => exec_refuses hs ?_,
    fun hssc hcache hv => exec_refuses hs ?_⟩
  · exact if_pos ((sscOutOfDomain_iff _).mpr hv)
  · exact if_pos (rateRefused_iff.mpr ⟨hv, hssc⟩)
  · rw [bodyOf, restoreBody, if_neg hcache, if_pos (rateRefused_iff.mpr ⟨hv, hssc⟩)]

end Sys2Proof.Machine

/-! PROOFS. What SET_RATE leaves in the fields of the bank (43 R153, R155; 41 R110). -/

namespace Sys2Proof.Machine

/-! ### The fields the configuration places -/

/-- A field the configuration places: a named field, or one of the OPEN lists (10 R38, R39; 41 R110). -/
def Placed (p : Params) (f : FieldDesc) : Prop := (∃ a, f = p.fd a) ∨ f ∈ p.listFields

theorem placed_fd (p : Params) (a : FieldName) : Placed p (p.fd a) := .inl ⟨a, rfl⟩

theorem placed_srField {p : Params} {r : RegName} {l : List FixedWrite} (hl : (r, l) ∈ p.srLists) {w : FixedWrite}
    (hw : w ∈ l) : Placed p (w.fd r) :=
  .inr (List.mem_append_left _ (List.mem_flatMap.mpr ⟨_, hl, List.mem_map_of_mem hw⟩))

theorem placed_sscField {p : Params} {e : SscEntry} (he : e ∈ p.sscByteMap) : Placed p e.fd :=
  .inr (List.mem_append_right _ (List.mem_map_of_mem he))

theorem Placed.fits {p : Params} (hw : p.wellFormed = true) {f : FieldDesc} (h : Placed p f) :
    f.lsb + f.width ≤ 8 := by
  obtain ⟨a, rfl⟩ | h := h
  · obtain ⟨_, _, _, hfits⟩ := Params.wellFormed_inByte hw a
    exact hfits
  · obtain ⟨_, _, _, hfits⟩ := Params.wellFormed_listInByte hw h
    exact hfits

theorem wf_listFields_apart {p : Params} (hw : p.wellFormed = true) {f g : FieldDesc} (hf : f ∈ p.listFields)
    (hg : g ∈ p.listFields) (hne : f ≠ g) : p.apart f g = true := by
  have hlists : p.listsApart = true := by
    simp only [Params.wellFormed, Bool.and_eq_true] at hw
    tauto
  simp only [Params.listsApart, Bool.and_eq_true, List.all_eq_true] at hlists
  obtain ⟨_, hother⟩ := hlists f hf
  simpa [hne] using hother g hg

/-- Two placed fields are the same field or share no bit (10 R36, R38). -/
theorem Placed.apart {p : Params} (hw : p.wellFormed = true) {f g : FieldDesc} (hf : Placed p f) (hg : Placed p g)
    (hne : f ≠ g) : p.apart f g = true := by
  obtain ⟨a, rfl⟩ | hf := hf <;> obtain ⟨b, rfl⟩ | hg := hg
  · exact Params.wellFormed_apart hw (fun hab => hne (congrArg p.fd hab))
  · exact apart_symm (Params.wellFormed_listApart hw hg a)
  · exact Params.wellFormed_listApart hw hf b
  · exact wf_listFields_apart hw hf hg hne

theorem Placed.nonVolatile {p : Params} (hw : p.wellFormed = true) {f : FieldDesc} (h : Placed p f)
    (hl : f ≠ p.fd .lock) (hr : f ≠ p.fd .running) : NonVolatile p f :=
  ⟨h.apart hw (placed_fd p _) hl, h.apart hw (placed_fd p _) hr⟩

/-! ### The step of each register -/

/-- The place in the commit order of the step that writes a register, if one does (43 R153). -/
def commitStep : RegName → Option Nat
  | .pllGlobal => some 0
  | .slewCtrl => some 1
  | .hsfreq => some 2
  | .oscTargetLo | .oscTargetHi => some 3
  | .inputDivOvr => some 4
  | .loopDivLo | .loopDivHi => some 5
  | .inputLoopRatio => some 6
  | .cpGain => some 7
  | .gmpCtrl => some 8
  | .anaTestCtrl => some 9
  | .fsmOvrCtrl => some 10
  | .phaseErrCtrl => some 11
  | .lockFilter => some 12
  | .proDlyRelock => some 13
  | .lockDetMode => some 14
  | .ssc _ => some 15
  | _ => none

/-- The named fields outside the commit sequence lie in registers that no step writes. -/
theorem commitStep_fd_eq_none {p : Params} {a : FieldName}
    (h : a ∉ [FieldName.pllEn, .slew, .hsfreq, .oscLo, .oscHi, .loopLo, .loopHi, .fsmOvr]) :
    commitStep (p.fd a).reg = none := by
  cases a with
  | pllEn | slew | hsfreq | oscLo | oscHi | loopLo | loopHi | fsmOvr => exact absurd (by decide) h
  | subrange => cases hr : p.subrangeReg <;> simp [Params.fd, hr, SubrangeReg.reg, commitStep]
  | _ => rfl

/-- An operation writes one placed field of a register of step `k`. -/
def RegOp.InStep (p : Params) (k : Nat) (o : RegOp) : Prop :=
  ∃ f v, o = .field f v ∧ Placed p f ∧ commitStep f.reg = some k

theorem inStep_named (p : Params) (a : FieldName) (v : Nat) {k : Nat} (h : commitStep (p.fd a).reg = some k) :
    (RegOp.field (p.fd a) v).InStep p k := ⟨_, _, rfl, placed_fd p a, h⟩

theorem inStep_writeList {p : Params} {r : RegName} {l : List FixedWrite} {k : Nat} (hl : (r, l) ∈ p.srLists)
    (h : commitStep r = some k) : ∀ o ∈ writeList r l, o.InStep p k := by
  intro o ho
  obtain ⟨w, hw, rfl⟩ := List.mem_map.mp ho
  exact ⟨_, _, rfl, placed_srField hl hw, h⟩

theorem inStep_sscOps (p : Params) (c : SscPlan) : 
    ∀ o ∈ (if p.sscEnabled then sscOps p c else []), o.InStep p 15 := by
  intro o ho
  split at ho
  case isFalse => cases ho
  obtain ⟨e, he, rfl⟩ := List.mem_map.mp ho
  exact ⟨_, _, rfl, placed_sscField he, rfl⟩

/-- Each step writes placed fields of its own registers (43 R153). -/
theorem rateSteps_inStep {p : Params} {q : FreqPlan} {c : SscPlan} {k : Nat} {st : List RegOp}
    (h : (rateSteps p q c)[k]? = some st) : ∀ o ∈ st, o.InStep p k := by
  have hall : ∀ x ∈ (rateSteps p q c).zipIdx, ∀ o ∈ x.1, o.InStep p x.2 := by
    simp only [rateSteps, List.zipIdx_cons, List.zipIdx_nil, List.forall_mem_cons, List.not_mem_nil, false_implies,
      implies_true, and_true, Nat.reduceAdd]
    refine ⟨inStep_named p .pllEn _ rfl, inStep_named p .slew _ rfl, inStep_named p .hsfreq _ rfl,
      ⟨inStep_named p .oscLo _ rfl, inStep_named p .oscHi _ rfl⟩, ?_,
      ⟨inStep_named p .loopLo _ rfl, inStep_named p .loopHi _ rfl⟩, ?_, ?_, ?_, ?_,
      inStep_named p .fsmOvr _ rfl, ?_, ?_, ?_, ?_, inStep_sscOps p c⟩
    all_goals exact inStep_writeList (by simp [Params.srLists]) rfl
  exact hall (st, k) (List.mem_zipIdx_iff_getElem?.mpr h)

/-- An operation avoids a placed field of another step. -/
theorem RegOp.InStep.avoids {p : Params} (hw : p.wellFormed = true) {f : FieldDesc} {k : Nat} {o : RegOp}
    (ho : o.InStep p k) (hf : Placed p f) (hne : commitStep f.reg ≠ some k) : o.avoids p f := by
  obtain ⟨g, v, rfl, hg, hk⟩ := ho
  exact ⟨hg.fits hw, hf.apart hw hg (fun he => hne (he ▸ hk))⟩

/-! ### The last write of a field -/

/-- Nothing in the commit sequence touches a placed field outside its registers. -/
theorem rateOps_avoids {p : Params} (hw : p.wellFormed = true) {f : FieldDesc} (hf : Placed p f)
    (h : commitStep f.reg = none) (q : FreqPlan) (c : SscPlan) : ∀ o ∈ rateOps p q c, o.avoids p f := by
  refine withDelays_avoids _ _ (fun st hst o ho => ?_)
  obtain ⟨k, hk⟩ := List.mem_iff_getElem?.mp hst
  exact (rateSteps_inStep hk o ho).avoids hw hf (by simp [h])

/-- A field that a step writes is placed, in a register of that step. -/
theorem LastWrite.inStep {p : Params} {q : FreqPlan} {c : SscPlan} {k : Nat} {st : List RegOp} {f : FieldDesc}
    {v : Nat} (hk : (rateSteps p q c)[k]? = some st) (h : LastWrite p f v st) :
    Placed p f ∧ commitStep f.reg = some k := by
  obtain ⟨l1, l2, rfl, _⟩ := h
  obtain ⟨_, _, he, hf, hreg⟩ := rateSteps_inStep hk (.field f v) (by simp)
  cases he
  exact ⟨hf, hreg⟩

/-- A step's last write of a field is the commit sequence's: the later steps write other registers (43 R153). -/
theorem rateOps_last {p : Params} (hw : p.wellFormed = true) {q : FreqPlan} {c : SscPlan} {k : Nat}
    {st : List RegOp} {f : FieldDesc} {v : Nat} (hk : (rateSteps p q c)[k]? = some st) (h : LastWrite p f v st) :
    LastWrite p f v (rateOps p q c) := by
  obtain ⟨hf, hreg⟩ := h.inStep hk
  obtain ⟨hlt, rfl⟩ := List.getElem?_eq_some_iff.mp hk
  have hsplit : rateSteps p q c =
      (rateSteps p q c).take k ++ (rateSteps p q c)[k] :: (rateSteps p q c).drop (k + 1) := by
    rw [List.getElem_cons_drop, List.take_append_drop]
  rw [rateOps, hsplit]
  refine withDelays_last _ _ _ _ h (fun st' hst' o ho => ?_)
  obtain ⟨j, hj, rfl⟩ := List.mem_drop_iff_getElem.mp hst'
  exact (rateSteps_inStep (List.getElem?_eq_getElem _) o ho).avoids hw hf (by rw [hreg, Ne, Option.some.injEq]; omega)

/-- The last entry of a list that writes a field is its last write, where the list's fields are placed. -/
theorem lastWrite_map {p : Params} (hw : p.wellFormed = true) {α : Type} {fd : α → FieldDesc} {val : α → Nat}
    {l1 l2 : List α} {x : α} (hp : ∀ y ∈ l1 ++ x :: l2, Placed p (fd y)) (hl : ∀ y ∈ l2, fd y ≠ fd x) :
    LastWrite p (fd x) (val x) ((l1 ++ x :: l2).map (fun y => .field (fd y) (val y))) := by
  rw [List.map_append, List.map_cons]
  refine ⟨_, _, rfl, fun o ho => ?_⟩
  obtain ⟨y, hy, rfl⟩ := List.mem_map.mp ho
  have hpy : Placed p (fd y) := hp y (by simp [hy])
  have hpx : Placed p (fd x) := hp x (by simp)
  exact ⟨hpy.fits hw, hpx.apart hw hpy (hl y hy).symm⟩

theorem LastWrite.fst {p : Params} {f : FieldDesc} {o : RegOp} (h : o.avoids p f) (v : Nat) :
    LastWrite p f v [.field f v, o] :=
  LastWrite.one.append_right (by simpa using h)

theorem LastWrite.snd {p : Params} {f : FieldDesc} (o : RegOp) (v : Nat) : LastWrite p f v [o, .field f v] :=
  LastWrite.one.append_left [o]

/-! ### The transaction's plan -/

/-- The index the transaction plans with is the one the bank's two fields decode to (42 R124, 43 R152). -/
theorem rateTransaction_index {s : State} (hw : s.cfg.wellFormed = true) :
    (underPostdivLock postDivDecode s).1 =
      decodePattern s.cfg.postdivTable (s.field (s.cfg.fd .vcoRange)) (s.field (s.cfg.fd .cpBias)) :=
  postDivDecode_value (s := { s with postdivLock := .held s.turn }) hw

/-- The plan of the rate transaction of SET_RATE. -/
def ratePlan (s : State) : FreqPlan :=
  planFor s.cfg s.arg0
    (decodePattern s.cfg.postdivTable (s.field (s.cfg.fd .vcoRange)) (s.field (s.cfg.fd .cpBias))).1

/-- Inside its domain SET_RATE's fields are those the rate transaction leaves (43 R155). -/
theorem setRate_field {s t : State} (hs : Ready s) (hdom : s.cfg.sscEnabled = true → s.arg0 < 5404319539200000)
    (h : exec .setRate s = .next t) (f : FieldDesc) : t.field f = (rateTransaction s.arg0 s).field f := by
  have hb : bodyOf .setRate s = .completes .ok ((rateTransaction s.arg0 s).setAll []) :=
    if_neg (fun hr => let ⟨hv, hssc⟩ := rateRefused_iff.mp hr; Nat.not_le.mpr (hdom hssc) hv)
  obtain ⟨evs, hev⟩ := rateTransaction_body s.arg0 s
  have hx := (exec_completes hs hb hev (by simp)).1
  cases h.symm.trans hx
  exact finished_field _ _ _ _ f

/-- What SET_RATE leaves in a field that a step writes (43 R153). -/
theorem rateTransaction_step_field {s : State} (hw : s.cfg.wellFormed = true) {k : Nat} {st : List RegOp}
    {f : FieldDesc} {v : Nat} (hk : (rateSteps s.cfg (ratePlan s) (sscCompute s.arg0))[k]? = some st)
    (h : LastWrite s.cfg f v st) : (rateTransaction s.arg0 s).field f = v % 2 ^ f.width := by
  obtain ⟨hf, hreg⟩ := h.inStep hk
  have hn : NonVolatile s.cfg f :=
    hf.nonVolatile hw (by rintro rfl; cases hreg) (by rintro rfl; cases hreg)
  refine rateTransaction_field hn (hf.fits hw) ?_
  rw [rateTransaction_index hw]
  exact rateOps_last hw hk h

/-- The rate transaction leaves the named fields outside its registers (43 R153). -/
theorem rateTransaction_field_kept {s : State} (hw : s.cfg.wellFormed = true) {a : FieldName}
    (h : commitStep (s.cfg.fd a).reg = none) (hl : a ≠ .lock) (hr : a ≠ .running) (v : Nat) :
    (rateTransaction v s).field (s.cfg.fd a) = s.field (s.cfg.fd a) := by
  have hb := underPostdivLock_bankStep postDivDecode_bankStep s
  rw [rateTransaction_eq, State.field_setLocked, State.field_setVcoRate, runOps_field]
  · exact State.field_congr hb.cfg (underPostdivLock_decode_stored s _)
  · rw [hb.cfg]
    exact NonVolatile.of_wellFormed hw hl hr
  · rw [hb.cfg]
    exact rateOps_avoids hw (placed_fd _ a) h _ _

/-! ### SET_RATE -/

/-- What the rate transaction leaves in the named fields it writes, by its plan (43 R153). -/
theorem rateTransaction_named_fields {s : State} (hw : s.cfg.wellFormed = true) :
    let u := rateTransaction s.arg0 s
    let q := ratePlan s
    u.field (s.cfg.fd .pllEn) = 1 ∧ u.field (s.cfg.fd .slew) = s.cfg.srSlewVal.toNat ∧
    u.field (s.cfg.fd .hsfreq) = q.hs.toNat ∧ u.field (s.cfg.fd .oscLo) = q.osc.toNat % 256 ∧
    u.field (s.cfg.fd .oscHi) = q.osc.toNat / 256 ∧ u.field (s.cfg.fd .loopLo) = q.ratio % 64 ∧
    u.field (s.cfg.fd .loopHi) = q.ratio / 64 ∧ u.field (s.cfg.fd .fsmOvr) = q.fsm := by
  have hlow : (ratePlan s).osc.toNat &&& 0xFF = (ratePlan s).osc.toNat % 256 := Nat.and_two_pow_sub_one_eq_mod _ 8
  have hhigh : (ratePlan s).osc.toNat >>> 8 &&& 0xFF = (ratePlan s).osc.toNat / 256 % 256 := by
    rw [Nat.shiftRight_eq_div_pow]
    exact Nat.and_two_pow_sub_one_eq_mod _ 8
  have hratio : (ratePlan s).ratio < 4096 := loopDiv_lt _
  have hfsm : (ratePlan s).fsm < 2 := by
    change fsmOverride _ < 2
    unfold fsmOverride
    split <;> decide
  refine ⟨rateTransaction_step_field hw (k := 0) rfl .one,
    (rateTransaction_step_field hw (k := 1) rfl .one).trans (Nat.mod_eq_of_lt (BitVec.isLt _)),
    (rateTransaction_step_field hw (k := 2) rfl .one).trans (Nat.mod_eq_of_lt (BitVec.isLt _)),
    (rateTransaction_step_field hw (k := 3) rfl (.fst (wf_avoids_field hw (by decide) _) _)).trans ?_,
    (rateTransaction_step_field hw (k := 3) rfl (.snd _ _)).trans ?_,
    (rateTransaction_step_field hw (k := 5) rfl (.fst (wf_avoids_field hw (by decide) _) _)).trans ?_,
    (rateTransaction_step_field hw (k := 5) rfl (.snd _ _)).trans ?_,
    (rateTransaction_step_field hw (k := 10) rfl .one).trans (Nat.mod_eq_of_lt hfsm)⟩
  all_goals simp only [Params.fd, hlow, hhigh, loopLow_eq_mod, loopHigh_eq_div hratio]
  all_goals omega

/-- The plan for a rate, by line rate, bit clock and ratio (40 R81, R86, R89, R91). -/
theorem planFor_eq (p : Params) (t idx : Nat) :
    let line := t / 2 ^ idx
    let b := 2 * line / 1000000
    planFor p t idx = ⟨rangeSelect p b, oscTarget p (line / 1000000), (4 * t + 9600000) / 19200000 % 4096,
      if 1500 ≤ b ∧ b ≤ 2500 then 0 else 1⟩ := by
  simp only [planFor, lineRate, Nat.shiftRight_eq_div_pow]
  rfl

/-- Each list of fixed values is a step of the commit sequence (10 R39, 43 R153). -/
theorem writeList_mem_rateSteps {p : Params} {r : RegName} {l : List FixedWrite} (h : (r, l) ∈ p.srLists)
    (q : FreqPlan) (c : SscPlan) : writeList r l ∈ rateSteps p q c := by
  have hall : ∀ rl ∈ p.srLists, writeList rl.1 rl.2 ∈ rateSteps p q c := by simp [Params.srLists, rateSteps]
  exact hall (r, l) h

/-- The last entry for a field in a list of fixed values is what the rate transaction leaves there (10 R39). -/
theorem rateTransaction_sr_field {s : State} (hw : s.cfg.wellFormed = true) {r : RegName} {l1 l2 : List FixedWrite}
    {w : FixedWrite} (hl : (r, l1 ++ w :: l2) ∈ s.cfg.srLists) (hlast : ∀ w' ∈ l2, w'.fd r ≠ w.fd r) :
    (rateTransaction s.arg0 s).field (w.fd r) = w.value.toNat % 2 ^ w.width := by
  obtain ⟨k, hk⟩ := List.mem_iff_getElem?.mp (writeList_mem_rateSteps hl (ratePlan s) (sscCompute s.arg0))
  exact rateTransaction_step_field hw hk
    (lastWrite_map hw (fd := FixedWrite.fd r) (fun _ hy => placed_srField hl hy) hlast)

/-- The last entry for a field in SSC_BYTE_MAP is what the rate transaction leaves there (41 R110). -/
theorem rateTransaction_ssc_field {s : State} (hw : s.cfg.wellFormed = true) (hssc : s.cfg.sscEnabled = true)
    {l1 l2 : List SscEntry} {e : SscEntry} (hl : s.cfg.sscByteMap = l1 ++ e :: l2)
    (hlast : ∀ e' ∈ l2, e'.fd ≠ e.fd) : (rateTransaction s.arg0 s).field e.fd =
      (sscCompute s.arg0).value e.src / 2 ^ e.shift % 2 ^ e.width := by
  have hk : (rateSteps s.cfg (ratePlan s) (sscCompute s.arg0))[15]? =
      some (sscOps s.cfg (sscCompute s.arg0)) := by simp [rateSteps, hssc]
  rw [sscOps, hl] at hk
  rw [← Nat.shiftRight_eq_div_pow]
  exact rateTransaction_step_field hw hk
    (lastWrite_map hw (fd := SscEntry.fd) (fun _ hy => placed_sscField (hl ▸ hy)) hlast)

/-- Settles O34: each field written is last written by the one step of its register; the other named fields lie in
registers that no step writes. -/
theorem setRateProgramsFields : Obligations.SetRateProgramsFields := by
  intro s t hs hw hdom h idx line b r
  have hfield := setRate_field hs hdom h
  obtain ⟨hen, hslew, hhs, holo, hohi, hllo, hlhi, hfsm⟩ := rateTransaction_named_fields hw
  rw [ratePlan, planFor_eq] at hhs holo hohi hllo hlhi hfsm
  refine ⟨(hfield _).trans hen, (hfield _).trans hslew, (hfield _).trans hhs, (hfield _).trans holo,
    (hfield _).trans hohi, (hfield _).trans hllo, (hfield _).trans hlhi, (hfield _).trans hfsm, ?_, ?_, ?_⟩
  · rintro reg _ l1 w l2 hl rfl hlast
    exact (hfield _).trans (rateTransaction_sr_field hw hl hlast)
  · intro hssc l1 e l2 hl hlast
    exact (hfield _).trans (rateTransaction_ssc_field hw hssc hl hlast)
  · intro a ha hlock hrun
    exact (hfield _).trans (rateTransaction_field_kept hw (commitStep_fd_eq_none ha) hlock hrun _)

end Sys2Proof.Machine

/-! PROOFS. The divider tree: the GP divider, the pixel divider and the post divider (42_divider_tree). -/

namespace Sys2Proof.Machine

/-! ### Commands that use the bank -/

/-- A ready block completes a command of bank operations and results, which alone decide the runtime state and the
bytes it leaves (60 R200.1). -/
theorem exec_bankStep {i : Instr} {s v : State} {e : ErrCode} {evs : List Event} {rs : List (Fin 6 × Nat)}
    (hs : Ready s) (hb : bodyOf i s = .completes e (v.setAll rs)) (hv : BankStep s v) (hevs : BodyStep s v evs)
    (nd : (rs.map Prod.fst).Nodup) :
    ∃ t, exec i s = .next t ∧ Ends (opcode i) e rs evs s t ∧ SameRuntime s t ∧ SameBytes v t :=
  have ⟨hx, he⟩ := exec_completes hs hb hevs nd
  ⟨_, hx, he, hv.sameRuntime.trans (finished_untouched _ e rs v).1, finished_sameBytes _ e rs v⟩

/-- What is kept is a matter of the configuration and the stored bytes alone. -/
theorem BytesKept.congr {rs : List RegName} {s u v t : State} (h : BytesKept rs u v) (hs : SameBytes s u)
    (ht : SameBytes v t) : BytesKept rs s t := by
  obtain ⟨hc, hbytes⟩ := hs
  exact fun off ho => (ht.2 off).trans ((h off (hc ▸ ho)).trans (hbytes off))

theorem FieldsKept.congr {as : List FieldName} {s u v t : State} (h : FieldsKept as u v) (hs : SameBytes s u)
    (ht : SameBytes v t) : FieldsKept as s t := by
  intro a ha hl hr
  have hkept := h a ha hl hr
  rw [hs.1] at hkept
  exact (ht.field _).trans (hkept.trans (hs.field _))

theorem State.fieldWrite_bytesKept (f : FieldDesc) (v : Nat) (s : State) : BytesKept [f.reg] s (s.fieldWrite f v) :=
  fun _ h => State.fieldWrite_stored_other (h _ List.mem_cons_self) v

theorem wf_fieldsKept {s : State} (hw : s.cfg.wellFormed = true) (a : FieldName) (v : Nat) :
    FieldsKept [a] s (s.fieldWrite (s.cfg.fd a) v) := fun _ hb hl hr =>
  wf_field_kept hw (List.ne_of_not_mem_cons hb) hl hr v

/-- A command that reads one field and reports leaves every byte as it was. -/
theorem exec_fieldRead {i : Instr} {s : State} {a : FieldName} {rs : List (Fin 6 × Nat)} (hs : Ready s)
    (hb : bodyOf i s = .completes .ok ((s.fieldRead (s.cfg.fd a)).2.setAll rs)) (nd : (rs.map Prod.fst).Nodup) :
    ∃ t b, exec i s = .next t ∧ Ends (opcode i) .ok rs [.read (s.cfg.offset (s.cfg.fd a).reg) b] s t ∧
      SameRuntime s t ∧ ∀ off, t.stored off = s.stored off :=
  have ⟨t, hx, he, hrun, hsame⟩ := exec_bankStep hs hb (s.fieldRead_bankStep _) (s.fieldRead_body _) nd
  ⟨t, _, hx, he, hrun, ((s.fieldRead_sameBytes _).trans hsame).2⟩

/-- A command that writes one narrow field and reports leaves the value there and every other named field alone. -/
theorem exec_fieldWrite {i : Instr} {s : State} {a : FieldName} {v : Nat} {rs : List (Fin 6 × Nat)} (hs : Ready s)
    (hw : s.cfg.wellFormed = true) (hwidth : (s.cfg.fd a).width ≠ 8) (hv : v < 2 ^ (s.cfg.fd a).width)
    (hb : bodyOf i s = .completes .ok ((s.fieldWrite (s.cfg.fd a) v).setAll rs)) (nd : (rs.map Prod.fst).Nodup) :
    ∃ t evs, exec i s = .next t ∧ Ends (opcode i) .ok rs evs s t ∧ MergeEvents s.cfg (s.cfg.fd a) v evs ∧
      SameRuntime s t ∧ t.field (s.cfg.fd a) = v ∧ FieldsKept [a] s t ∧ BytesKept [(s.cfg.fd a).reg] s t := by
  obtain ⟨evs, hm, hbody⟩ := State.fieldWrite_merge hwidth v s
  obtain ⟨t, hx, he, hrun, hsame⟩ := exec_bankStep hs hb (s.fieldWrite_bankStep _ v) hbody nd
  have hfield := wf_field_write hw a v
  rw [Nat.mod_eq_of_lt hv] at hfield
  exact ⟨t, evs, hx, he, hm, hrun, (hsame.field _).trans hfield, (wf_fieldsKept hw a v).congr (.refl s) hsame,
    (s.fieldWrite_bytesKept _ v).congr (.refl s) hsame⟩

/-! ### What a completed command leaves to the next one -/

section
variable {op : Byte} {e : ErrCode} {rs : List (Fin 6 × Nat)} {evs : List Event} {s t : State}
  (h : Ends op e rs evs s t)
include h

theorem Ends.cfg : t.cfg = s.cfg := by
  obtain ⟨⟨_, _, _, _, hc, _⟩, _⟩ := h
  exact hc

theorem Ends.ready (hs : Ready s) : Ready t := by
  obtain ⟨⟨hf, hr, ⟨hc, _⟩, _⟩, _⟩ := h
  obtain ⟨hf', hr', hc'⟩ := hs
  exact ⟨hf.trans hf', hr.trans hr', hc.trans hc'⟩

theorem Ends.readRes {i : Fin 6} {v : Nat} (hi : (i, v) ∈ rs) :
    (t.iface t.turn).readRes i = some (BitVec.ofNat 64 v) := by
  obtain ⟨⟨_, _, _, _, _, _, _, hturn⟩, _, ⟨_, _, _, _, hres, _⟩, _⟩ := h
  rw [hturn]
  exact hres _ hi

end

/-! ### The pixel divider -/

theorem pixRatio_bounds (t p : Nat) : 1 ≤ pixRatio t p ∧ pixRatio t p ≤ 128 := by
  unfold pixRatio clamp
  split_ifs <;> omega

/-- Settles O51: the body writes two results and makes no access. -/
theorem pixdivRoundRateResult : Obligations.PixdivRoundRateResult := by
  intro s hs
  obtain ⟨t, hx, he, hu⟩ := exec_results (i := .pixdivRoundRate) hs rfl
    (rs := [(0, pixRate s.arg1 (pixRatio s.arg0 s.arg1)), (1, pixRatio s.arg0 s.arg1)]) (by simp)
  exact ⟨t, hx, hu, he⟩

/-- Settles O52: the ratio lies in 1 to 128, so one less fits the seven bits. -/
theorem pixdivSetRateWrites : Obligations.PixdivSetRateWrites := by
  intro s hs hw
  obtain ⟨hlo, hhi⟩ := pixRatio_bounds s.arg0 s.arg1
  have hfits : pixRatio s.arg0 s.arg1 - 1 < 2 ^ 7 := by omega
  exact exec_fieldWrite (i := .pixdivSetRate) (a := .pixdiv) (rs := [(1, pixRatio s.arg0 s.arg1)]) hs hw
    (show 7 ≠ 8 by decide) hfits rfl (by simp)

/-- Settles O53: the body reads the field and reports the ceiling. -/
theorem pixdivRecalcRateReports : Obligations.PixdivRecalcRateReports := by
  intro s hs hw
  rw [← wf_fieldRead hw (a := .pixdiv) (by decide) (by decide)]
  exact exec_fieldRead (i := .pixdivRecalcRate) (a := .pixdiv)
    (rs := [(0, pixRate s.arg1 ((s.fieldRead (s.cfg.fd .pixdiv)).1 + 1))]) hs rfl (by simp)

/-! ### The GP divider -/

theorem bodyOf_gpdivSet {s : State} (h : s.arg0 ≤ 7) :
    bodyOf .gpdivSet s = .completes .ok ((s.fieldWrite (s.cfg.fd .gpdiv) s.arg0).setAll []) :=
  if_neg (Nat.not_lt.mpr h)

/-- The values 0 to 5 select a parent, by powers of two (42 R129). -/
theorem gpdivDivisor_eq (v : Nat) : gpdivDivisor v = if v ≤ 5 then some (2 ^ v) else none := by
  simp only [gpdivDivisor, Config.gpdivParents, Nat.lt_succ_iff]

/-- Settles O48: the operand fits the three bits, and the parent is looked up in the field as written. -/
theorem gpdivSetWrites : Obligations.GpdivSetWrites := by
  intro s hs hw harg
  obtain ⟨t, evs, hx, he, hm, hrun, hfield, hkept, hbytes⟩ :=
    exec_fieldWrite (a := .gpdiv) hs hw (show 3 ≠ 8 by decide) (Nat.lt_succ_of_le harg) (bodyOf_gpdivSet harg)
      (by simp)
  have hparent : t.gpdivParent = gpdivDivisor s.arg0 := by rw [State.gpdivParent, he.cfg, hfield]
  exact ⟨t, evs, hx, he, hm, hrun, hfield, hparent.trans (gpdivDivisor_eq _), hkept, hbytes⟩

/-- Settles O49: the body reads the three bits and reports them. -/
theorem gpdivGetReads : Obligations.GpdivGetReads := by
  intro s hs hw
  obtain ⟨t, b, hx, he, hrun, hbytes⟩ := exec_fieldRead (i := .gpdivGet) (a := .gpdiv)
    (rs := [(0, (s.fieldRead (s.cfg.fd .gpdiv)).1)]) hs rfl (by simp)
  rw [wf_fieldRead hw (by decide) (by decide)] at he
  exact ⟨t, b, hx, he, Nat.le_of_lt_succ (State.field_lt (s.cfg.fd .gpdiv) s), hrun, hbytes⟩

/-! ### POSTDIV_GET -/

/-- Settles O47: the decode's two bytes hold the fields' values, and its row decides the results and the log. -/
theorem postdivGetDecodes : Obligations.PostdivGetDecodes := by
  intro s hs hw
  obtain ⟨b, c, lg, hbody, hlog, hval, hfields⟩ := postDivDecode_body s
  obtain ⟨hrc, hbc⟩ := hfields hw
  rw [hrc, hbc] at hlog hval
  obtain ⟨t, hx, he, hrun, hsame⟩ := exec_bankStep (i := .postdivGet)
    (rs := [(0, (postDivDecode s).1.1), (1, (postDivDecode s).1.2)]) hs rfl (postDivDecode_bankStep s) hbody (by simp)
  refine ⟨t, _, _, b, c, lg, hx, he, hrun, fun off => (hsame.2 off).trans (postDivDecode_stored s off),
    fun j hrcj hbcj hfirst => ?_, fun hnone => ?_⟩
  · have hrow := decodeRow_eq_some j hrcj hbcj hfirst
    rw [hval, decodePattern, hlog, hrow]
    exact ⟨rfl, rfl, rfl⟩
  · have hrow := decodeRow_eq_none hnone
    rw [hval, decodePattern, hlog, hrow]
    exact ⟨rfl, rfl, rfl⟩

/-! ### POSTDIV_SET -/

/-- A band's code is the start value or one of the table's. -/
theorem bandFrom_mem (c : Byte) (t : List Band) (b : Nat) : bandFrom c t b = c ∨ ∃ x ∈ t, bandFrom c t b = x.code := by
  induction t generalizing c with
  | nil => exact .inl rfl
  | cons x rest ih =>
    rw [bandFrom]
    split_ifs
    · rcases ih x.code with h | ⟨y, hy, h⟩
      · exact .inr ⟨x, List.mem_cons_self, h⟩
      · exact .inr ⟨y, List.mem_cons_of_mem x hy, h⟩
    · exact .inl rfl

/-- A lookup takes its code from the table, 0 where there is none (log entry 24). -/
theorem bandLookup_mem (t : List Band) (b : Nat) : bandLookup t b = 0 ∨ ∃ x ∈ t, bandLookup t b = x.code := by
  cases t with
  | nil => exact .inl rfl
  | cons x rest =>
    rcases bandFrom_mem x.code (x :: rest) b with h | h
    · exact .inr ⟨x, List.mem_cons_self, h⟩
    · exact .inr h

/-- A sub-range code fits its field (10 R38, 42 R122). -/
theorem subRange_lt {p : Params} (hw : p.wellFormed = true) (f : Nat) : (subRange p f).toNat < 2 ^ 2 := by
  have hok : p.subrangeOk = true := by
    simp only [Params.wellFormed, Bool.and_eq_true] at hw
    tauto
  simp only [Params.subrangeOk, Bool.and_eq_true, List.all_eq_true, Bool.or_eq_true, decide_eq_true_eq,
    or_assoc] at hok
  obtain ⟨-, hcodes⟩ := hok
  rw [subRange]
  rcases bandLookup_mem p.subrangeTable f with h | ⟨x, hx, h⟩
  · rw [h]; decide
  · rw [h]
    rcases hcodes x hx with hc | hc | hc <;> rw [hc] <;> decide

theorem recalcRate_sameBytes (s : State) : SameBytes s (recalcRate s).2 :=
  ⟨(recalcRate_bankStep s).cfg, recalcRate_stored s⟩

/-- RecalcRate writes nothing and waits for nothing (43 R156). -/
theorem recalcRate_trace (s : State) : ∃ evs, BodyStep s (recalcRate s).2 evs ∧ commitTrace evs = [] := by
  by_cases h : s.currentVcoRate = 0
  · obtain ⟨b, c, hb⟩ := recalcRate_readBack_body h
    exact ⟨_, hb, rfl⟩
  · rw [recalcRate_cheap h]
    exact ⟨[], .refl s, rfl⟩

theorem recalcRate_value {s : State} (hw : s.cfg.wellFormed = true) : (recalcRate s).1 =
    if s.currentVcoRate = 0 then 19200000 * (64 * s.field (s.cfg.fd .loopHi) + s.field (s.cfg.fd .loopLo)) / 4
    else s.currentVcoRate.toNat := by
  split_ifs with h
  · exact recalcRate_readBack_value hw h
  · rw [recalcRate_cheap h]

section
variable (p : Params) (row : PostdivRow) (sc : Nat)

/-- Each of the two registers is written once, whichever holds the sub-range (42 R125). -/
theorem postdivOps_trace :
    (postdivOps p row sc).flatMap (RegOp.trace p) = [.inl (p.offset .vcoCntrl), .inl (p.offset .cpBias)] := by
  unfold postdivOps
  cases h : p.subrangeReg <;> simp [RegOp.trace, Params.fd, SubrangeReg.reg, h]

theorem postdivOps_writes : ∀ o ∈ postdivOps p row sc, ∀ r ∈ o.writes, r ∈ [RegName.vcoCntrl, .cpBias] := by
  unfold postdivOps
  cases h : p.subrangeReg <;> simp [RegOp.writes, Params.fd, SubrangeReg.reg, h]

end

/-- The writes avoid every named field but the three they are for. -/
theorem postdivOps_avoids {s : State} (hw : s.cfg.wellFormed = true) {a : FieldName}
    (ha : a ∉ [FieldName.vcoRange, .cpBias, .subrange]) (row : PostdivRow) (sc : Nat) :
    ∀ o ∈ postdivOps s.cfg row sc, o.avoids s.cfg (s.cfg.fd a) := by
  simp only [List.mem_cons, List.not_mem_nil, or_false, not_or] at ha
  obtain ⟨hrange, hbias, hsub⟩ := ha
  unfold postdivOps
  cases s.cfg.subrangeReg with
  | vcoCntrl =>
    exact List.forall_mem_cons.mpr ⟨wf_avoids_field2 hw hrange hsub (by decide) _ _,
      List.forall_mem_singleton.mpr (wf_avoids_field hw hbias _)⟩
  | cpBias =>
    exact List.forall_mem_cons.mpr ⟨wf_avoids_field hw hrange _,
      List.forall_mem_singleton.mpr (wf_avoids_field2 hw hbias hsub (by decide) _ _)⟩

/-- A named field of a well-formed configuration that a sequence writes last takes the value, if it fits. -/
theorem wf_lastWrite_field {s : State} (hw : s.cfg.wellFormed = true) {a : FieldName} (hl : a ≠ .lock)
    (hr : a ≠ .running) {v : Nat} {l : List RegOp} (h : LastWrite s.cfg (s.cfg.fd a) v l)
    (hv : v < 2 ^ (s.cfg.fd a).width) : (runOps l s).field (s.cfg.fd a) = v :=
  (h.field (.of_wellFormed hw hl hr) (wf_fits hw a)).trans (Nat.mod_eq_of_lt hv)

/-- So do both fields of a pair that a sequence writes last (42 R125). -/
theorem wf_lastWrite_field2 {s : State} (hw : s.cfg.wellFormed = true) {a b : FieldName} (hab : a ≠ b)
    (ha : a ≠ .lock ∧ a ≠ .running) (hb : b ≠ .lock ∧ b ≠ .running) {v w : Nat} (hv : v < 2 ^ (s.cfg.fd a).width)
    (hw' : w < 2 ^ (s.cfg.fd b).width) (l : List RegOp) {l' : List RegOp}
    (h : ∀ o ∈ l', o.avoids s.cfg (s.cfg.fd a) ∧ o.avoids s.cfg (s.cfg.fd b)) :
    (runOps (l ++ .field2 (s.cfg.fd a) v (s.cfg.fd b) w :: l') s).field (s.cfg.fd a) = v ∧
    (runOps (l ++ .field2 (s.cfg.fd a) v (s.cfg.fd b) w :: l') s).field (s.cfg.fd b) = w := by
  have hpair := runOps_field2_last (l := l) (v := v) (w := w) (.of_wellFormed hw ha.1 ha.2)
    (.of_wellFormed hw hb.1 hb.2) (wf_fits hw a) (wf_fits hw b) (Params.wellFormed_apart hw hab) h
  rwa [Nat.mod_eq_of_lt hv, Nat.mod_eq_of_lt hw'] at hpair

section
variable {p : Params} {s : State} (hc : s.cfg = p)
include hc

theorem runOps_postdivOps_bytesKept (row : PostdivRow) (sc : Nat) :
    BytesKept [.vcoCntrl, .cpBias] s (runOps (postdivOps p row sc) s) := by
  subst hc
  exact fun _ h => runOps_stored_other fun o ho r hr => h r (postdivOps_writes _ row sc o ho r hr)

theorem runOps_postdivOps_fieldsKept (hw : p.wellFormed = true) (row : PostdivRow) (sc : Nat) :
    FieldsKept [.vcoRange, .cpBias, .subrange] s (runOps (postdivOps p row sc) s) := by
  subst hc
  exact fun _ ha hl hr => runOps_field (.of_wellFormed hw hl hr) (postdivOps_avoids hw ha row sc)

/-- The three fields hold the row's codes and the sub-range code (42 R126). -/
theorem runOps_postdivOps_fields (hw : p.wellFormed = true) (row : PostdivRow) {sc : Nat} (hsc : sc < 2 ^ 2) :
    (runOps (postdivOps p row sc) s).field (p.fd .vcoRange) = row.rc.toNat ∧
    (runOps (postdivOps p row sc) s).field (p.fd .cpBias) = row.bc.toNat ∧
    (runOps (postdivOps p row sc) s).field (p.fd .subrange) = sc := by
  subst hc
  unfold postdivOps
  cases s.cfg.subrangeReg with
  | vcoCntrl =>
    obtain ⟨hrange, hsub⟩ := wf_lastWrite_field2 hw (a := .vcoRange) (b := .subrange) (by decide) (by decide)
      (by decide) row.rc.isLt hsc [] (l' := [.field (s.cfg.fd .cpBias) row.bc.toNat])
      (List.forall_mem_singleton.mpr ⟨wf_avoids_field hw (by decide) _, wf_avoids_field hw (by decide) _⟩)
    exact ⟨hrange, wf_lastWrite_field hw (by decide) (by decide) (.snd _ _) row.bc.isLt, hsub⟩
  | cpBias =>
    obtain ⟨hbias, hsub⟩ := wf_lastWrite_field2 hw (a := .cpBias) (b := .subrange) (by decide) (by decide)
      (by decide) row.bc.isLt hsc [.field (s.cfg.fd .vcoRange) row.rc.toNat] (l' := []) (by simp)
    have hlast := LastWrite.fst
      (wf_avoids_field2 hw (c := .vcoRange) (a := .cpBias) (b := .subrange) (by decide) (by decide) (by decide)
        row.bc.toNat sc) row.rc.toNat
    exact ⟨wf_lastWrite_field hw (by decide) (by decide) hlast row.rc.isLt, hbias, hsub⟩

end

/-- The rate computed first writes nothing, so the trace is that of the two writes (42 R126). -/
theorem postdivSelect_trace (i : Fin 6) (s : State) : ∃ evs, BodyStep s (postdivSelect i s) evs ∧
    commitTrace evs = [.inl (s.cfg.offset .vcoCntrl), .inl (s.cfg.offset .cpBias)] := by
  obtain ⟨a, ha, hta⟩ := recalcRate_trace s
  obtain ⟨b, hb, htb⟩ := runOps_trace (postdivOps s.cfg s.cfg.postdivTable[i.val]
    (subRange s.cfg (mhz ((recalcRate s).1 >>> i.val))).toNat) (recalcRate s).2
  rw [ha.cfg, postdivOps_trace] at htb
  exact ⟨a ++ b, ha.trans hb, by rw [commitTrace_append, hta, htb, List.nil_append]⟩

theorem bodyOf_postdivSet {s : State} {i : Fin 6} (h : s.arg0 = i.val) :
    bodyOf .postdivSet s = .completes .ok ((postdivSelect i s).setAll []) := by
  obtain ⟨n, hn⟩ := i
  obtain rfl : s.arg0 = n := h
  exact dif_pos _

/-- Settles O46: RecalcRate leaves the bank alone, and the two writes leave the three codes. -/
theorem postdivSetWrites : Obligations.PostdivSetWrites := by
  intro s i hs hw harg
  have hrate := recalcRate_sameBytes s
  obtain ⟨evs, hbody, htrace⟩ := postdivSelect_trace i s
  obtain ⟨t, hx, he, hrun, hsame⟩ :=
    exec_bankStep hs (bodyOf_postdivSet harg) (postdivSelect_bankStep i s) hbody (by simp)
  obtain ⟨hrange, hbias, hsub⟩ := runOps_postdivOps_fields hrate.1 hw s.cfg.postdivTable[i.val]
    (subRange_lt hw (mhz ((recalcRate s).1 >>> i.val)))
  refine ⟨t, evs, hx, he, hrun, (hsame.field _).trans hrange, (hsame.field _).trans hbias,
    ((hsame.field _).trans hsub).trans ?_, (runOps_postdivOps_fieldsKept hrate.1 hw _ _).congr hrate hsame,
    (runOps_postdivOps_bytesKept hrate.1 _ _).congr hrate hsame, htrace⟩
  rw [mhz, Nat.shiftRight_eq_div_pow, recalcRate_value hw]

/-! ### Round trips -/

theorem PostdivRow.eq_of_toNat {r r' : PostdivRow} (hrc : r.rc.toNat = r'.rc.toNat) (hbc : r.bc.toNat = r'.bc.toNat) :
    r = r' := by
  cases r
  cases r'
  simpa [BitVec.toNat_inj] using And.intro hrc hbc

/-- Settles O50: each get reads back the fields that its set leaves. -/
theorem dividerRoundTrips : Obligations.DividerRoundTrips := by
  refine ⟨fun s i j hs hw harg hj hfirst => ?_, fun s hs hw harg => ?_⟩
  · obtain ⟨t, evs, hx, he, -, hrange, hbias, -⟩ := postdivSetWrites s i hs hw harg
    obtain ⟨u, r, f, b, c, lg, hx', he', -, -, hfound, -⟩ := postdivGetDecodes t (he.ready hs) (by rwa [he.cfg])
    simp only [he.cfg, hrange, hbias] at hfound
    obtain ⟨rfl, rfl, -⟩ := hfound j (by rw [hj]) (by rw [hj]) fun k hk ⟨hrc, hbc⟩ =>
      hfirst k hk (PostdivRow.eq_of_toNat hrc hbc)
    exact ⟨t, u, hx, hx', he'.readRes (by simp), he'.readRes (by simp)⟩
  · obtain ⟨t, evs, hx, he, -, -, hfield, -⟩ := gpdivSetWrites s hs hw harg
    obtain ⟨u, b, hx', he', -⟩ := gpdivGetReads t (he.ready hs) (by rwa [he.cfg])
    have hres := he'.readRes List.mem_cons_self
    rw [he.cfg, hfield, State.arg0, BitVec.ofNat_toNat, BitVec.setWidth_eq] at hres
    exact ⟨t, u, hx, hx', hres⟩

end Sys2Proof.Machine

/-! PROOFS. The rate commands: ROUND_RATE, RECALC_RATE and SET_RATE (43_rate). -/

namespace Sys2Proof.Machine

/-! ### ROUND_RATE and RECALC_RATE -/

/-- Settles O32: the body writes the clamped operand and nothing else. -/
theorem roundRateClamps : Obligations.RoundRateClamps := by
  intro s hs
  exact exec_results (i := .roundRate) (rs := [(0, clamp s.arg0 1000000000 2000000000)]) hs rfl (by simp)

theorem bodyOf_recalcRate_cheap {s : State} (h : s.currentVcoRate ≠ 0) :
    bodyOf .recalcRate s = .completes .ok (s.setAll [(0, s.currentVcoRate.toNat)]) := by
  simp only [bodyOf, recalcRate_cheap h]
  rfl

/-- Settles O36: a rate that is not 0 is reported as it stands, and a rate of 0 is read back from the two fields. -/
theorem recalcRateReports : Obligations.RecalcRateReports := by
  intro s hs
  by_cases h : s.currentVcoRate = 0
  · obtain ⟨b, c, hbody⟩ := recalcRate_readBack_body h
    obtain ⟨t, hx, he, hrun, hsame⟩ := exec_bankStep (i := .recalcRate) (rs := [(0, (recalcRate s).1)]) hs rfl
      (recalcRate_bankStep s) hbody (by simp)
    exact ⟨t, _, _, hx, he, hrun, ((recalcRate_sameBytes s).trans hsame).2, fun hne => absurd h hne,
      fun _ => ⟨⟨b, c, rfl⟩, fun hw => recalcRate_readBack_value hw h⟩⟩
  · obtain ⟨t, hx, he, hrun, hbytes, henv⟩ := exec_results hs (bodyOf_recalcRate_cheap h) (by simp)
    exact ⟨t, _, _, hx, he, hrun, hbytes, fun _ => ⟨rfl, rfl, henv⟩, fun h0 => absurd h0 h⟩

/-! ### SET_RATE -/

theorem not_rateRefused {p : Params} {v : Nat} (hdom : p.sscEnabled = true → v < 5404319539200000) :
    ¬rateRefused p v = true := fun hr =>
  have ⟨hv, hssc⟩ := rateRefused_iff.mp hr
  Nat.not_le.mpr (hdom hssc) hv

/-- Inside its domain SET_RATE's body is the rate transaction (43 R155). -/
theorem bodyOf_setRate {s : State} (hdom : s.cfg.sscEnabled = true → s.arg0 < 5404319539200000) :
    bodyOf .setRate s = .completes .ok ((rateTransaction s.arg0 s).setAll []) :=
  if_neg (not_rateRefused hdom)

theorem rateTransaction_currentVcoRate (r : DWord) (s : State) :
    (rateTransaction r.toNat s).currentVcoRate = r := by
  rw [rateTransaction_eq, State.setLocked_currentVcoRate, State.setVcoRate_currentVcoRate, BitVec.ofNat_toNat,
    BitVec.setWidth_eq]

theorem rateTransaction_locked (t : Nat) (s : State) : (rateTransaction t s).locked = false := rfl

/-- Inside its domain SET_RATE ends with the transaction's events and leaves what the transaction leaves. -/
theorem exec_setRate {s : State} {evs : List Event} (hs : Ready s)
    (hdom : s.cfg.sscEnabled = true → s.arg0 < 5404319539200000)
    (hbody : BodyStep s (rateTransaction s.arg0 s) evs) :
    ∃ t, exec .setRate s = .next t ∧ Ends 0x11 .ok [] evs s t ∧ Untouched (rateTransaction s.arg0 s) t :=
  have ⟨hx, he⟩ := exec_completes hs (bodyOf_setRate hdom) hbody (by simp)
  ⟨_, hx, he, finished_untouched _ _ _ _⟩

/-- Settles O33: the transaction writes the rate, `locked` and the bytes of its registers. -/
theorem setRateCompletes : Obligations.SetRateCompletes := by
  intro s hs hdom
  obtain ⟨evs, hbody⟩ := rateTransaction_body s.arg0 s
  obtain ⟨t, hx, he, ⟨hp, hl, hr, hc, hk⟩, hbytes, -⟩ := exec_setRate hs hdom hbody
  obtain ⟨hp', hc', hk'⟩ := rateTransaction_runtime s.arg0 s
  exact ⟨t, evs, hx, he, hr.trans (rateTransaction_currentVcoRate _ s), hl, hp.trans hp', hc.trans hc',
    hk.trans hk', fun off ho => (hbytes off).trans (rateTransaction_stored_other _ ho)⟩

/-! ### The commit order -/

/-- The registers each of the steps S1 to S16 writes, in order (43 R153). -/
def commitRegs (p : Params) : List (List RegName) :=
  [[.pllGlobal], [.slewCtrl], [.hsfreq], [.oscTargetLo, .oscTargetHi], p.srInputDivOvr.map (fun _ => .inputDivOvr),
    [.loopDivLo, .loopDivHi], p.srInputLoopRatio.map (fun _ => .inputLoopRatio), p.srCpGain.map (fun _ => .cpGain),
    p.srGmp.map (fun _ => .gmpCtrl), p.srAnaTest.map (fun _ => .anaTestCtrl), [.fsmOvrCtrl],
    p.srPhaseErr.map (fun _ => .phaseErrCtrl), p.srLockFilter.map (fun _ => .lockFilter),
    p.srProDlyRelock.map (fun _ => .proDlyRelock), p.srLockDetMode.map (fun _ => .lockDetMode),
    if p.sscEnabled then p.sscByteMap.map (fun e => .ssc e.n) else []]

/-- The offsets of the steps S1 to S16 in order, each step followed by its delay unless that is 0 (43 R153). -/
def commitOrder (p : Params) : List (Nat ⊕ Rat) :=
  (List.zip (commitRegs p) p.srDelayUs.toList).flatMap
    (fun x => x.1.map (fun r => .inl (p.offset r)) ++ if x.2 = 0 then [] else [.inr x.2])

/-- A list of field writes writes one offset per entry, in the order of the list. -/
theorem fieldWrites_trace {α : Type} (p : Params) (fd : α → FieldDesc) (val : α → Nat) (l : List α) :
    (l.map (fun x => RegOp.field (fd x) (val x))).flatMap (RegOp.trace p) =
      (l.map (fun x => (fd x).reg)).map (fun r => .inl (p.offset r)) := by
  induction l with
  | nil => rfl
  | cons x rest ih => exact congrArg (.inl (p.offset (fd x).reg) :: ·) ih

theorem sscStep_trace (p : Params) (c : SscPlan) :
    (if p.sscEnabled then sscOps p c else []).flatMap (RegOp.trace p) =
      (if p.sscEnabled then p.sscByteMap.map (fun e => RegName.ssc e.n) else []).map
        (fun r => .inl (p.offset r)) := by
  split
  · exact fieldWrites_trace p SscEntry.fd _ _
  · rfl

/-- Each step writes its registers, in order. -/
theorem rateSteps_trace (p : Params) (q : FreqPlan) (c : SscPlan) :
    (rateSteps p q c).map (List.flatMap (RegOp.trace p)) =
      (commitRegs p).map (List.map (fun r => .inl (p.offset r))) := by
  have hlist : ∀ r l, (writeList r l).flatMap (RegOp.trace p) =
      (l.map (fun _ => r)).map (fun r => .inl (p.offset r)) :=
    fun r l => fieldWrites_trace p (FixedWrite.fd r) _ l
  simp only [rateSteps, commitRegs, List.map_cons, List.map_nil, hlist, sscStep_trace]
  rfl

theorem stepDelay_trace (p : Params) (d : Rat) :
    (stepDelay d).flatMap (RegOp.trace p) = if d = 0 then [] else [.inr d] := by
  unfold stepDelay
  split <;> rfl

/-- Each step is followed by its delay, where there is a delay for every step (43 R153). -/
theorem withDelays_trace (p : Params) (steps : List (List RegOp)) (ds : List Rat) (h : steps.length ≤ ds.length) :
    (withDelays steps ds).flatMap (RegOp.trace p) =
      (List.zip (steps.map (List.flatMap (RegOp.trace p))) ds).flatMap
        (fun x => x.1 ++ if x.2 = 0 then [] else [.inr x.2]) := by
  induction steps generalizing ds with
  | nil => rfl
  | cons step steps ih =>
    cases ds with
    | nil => simp at h
    | cons d ds =>
      rw [withDelays, List.flatMap_append, List.flatMap_append, stepDelay_trace, ih ds (Nat.le_of_succ_le_succ h),
        List.map_cons, List.zip_cons_cons, List.flatMap_cons, List.append_assoc]

theorem rateOps_trace (p : Params) (q : FreqPlan) (c : SscPlan) :
    (rateOps p q c).flatMap (RegOp.trace p) = commitOrder p := by
  rw [rateOps, withDelays_trace p _ _ (by simp [rateSteps]), rateSteps_trace, List.zip_map_left, List.flatMap_map]
  rfl

/-- The rate transaction's decode writes nothing and waits for nothing, so its trace is the commit sequence's. -/
theorem rateTransaction_trace (t : Nat) (s : State) :
    ∃ evs, BodyStep s (rateTransaction t s) evs ∧ commitTrace evs = commitOrder s.cfg := by
  obtain ⟨a, ha, hta⟩ := underPostdivLock_decode_body s
  obtain ⟨b, hb, htb⟩ := runOps_trace
    (rateOps s.cfg (planFor s.cfg t (underPostdivLock postDivDecode s).1.1) (sscCompute t))
    (underPostdivLock postDivDecode s).2
  rw [ha.cfg, rateOps_trace] at htb
  exact ⟨a ++ b, ((ha.trans hb).setVcoRate t).setLocked false, by
    rw [commitTrace_append, hta, htb, List.nil_append]⟩

/-- Settles O35, from the trace of the rate transaction. -/
theorem setRateCommitOrder : Obligations.SetRateCommitOrder := by
  intro s hs hdom
  obtain ⟨evs, hbody, htrace⟩ := rateTransaction_trace s.arg0 s
  obtain ⟨t, hx, he, -⟩ := exec_setRate hs hdom hbody
  exact ⟨t, evs, hx, he, htrace⟩

/-! ### SET_RATE, then RECALC_RATE -/

/-- The two fields that SET_RATE leaves stand for the ratio's multiple of the reference clock over 4 (43 R158). -/
theorem loopFields_value (t : Nat) :
    19200000 * (64 * (loopDiv t / 64) + loopDiv t % 64) / 4 = 19200000 * loopDiv t / 4 := by
  rw [Nat.div_add_mod]

/-- Below the wrap the quantized rate lies within half a quarter step of the target (40 R92). -/
theorem quantizedRate_near {t : Nat} (h : t < 19658400000) :
    t ≤ 19200000 * loopDiv t / 4 + 2400000 ∧ 19200000 * loopDiv t / 4 ≤ t + 2400000 := by
  have hnear := (loopRatioReproducesTarget t).1 h
  rw [loopRate_fields (loopDiv_lt t)] at hnear
  omega

/-- A ready block of committed rate 0 reports what its loop fields stand for (43 R156). -/
theorem exec_recalcRate_readBack {s : State} (hs : Ready s) (hw : s.cfg.wellFormed = true)
    (h : s.currentVcoRate = 0) : ∃ u, exec .recalcRate s = .next u ∧ (u.iface u.turn).readRes 0 = some
      (BitVec.ofNat 64 (19200000 * (64 * s.field (s.cfg.fd .loopHi) + s.field (s.cfg.fd .loopLo)) / 4)) := by
  obtain ⟨u, v, evs, hx, he, -, -, -, hread⟩ := recalcRateReports s hs
  obtain ⟨-, hv⟩ := hread h
  exact ⟨u, hx, hv hw ▸ he.readRes List.mem_cons_self⟩

/-- A ready block whose committed rate is not 0 reports it (43 R156). -/
theorem exec_recalcRate_cheap {s : State} (hs : Ready s) (h : s.currentVcoRate ≠ 0) :
    ∃ u, exec .recalcRate s = .next u ∧ (u.iface u.turn).readRes 0 = some s.currentVcoRate := by
  obtain ⟨u, v, evs, hx, he, -, -, hcheap, -⟩ := recalcRateReports s hs
  obtain ⟨rfl, -⟩ := hcheap h
  have hres := he.readRes List.mem_cons_self
  rw [BitVec.ofNat_toNat, BitVec.setWidth_eq] at hres
  exact ⟨u, hx, hres⟩

/-- Settles O37: the committed rate is the operand, and the loop fields hold the ratio's two halves. -/
theorem setRateThenRecalc : Obligations.SetRateThenRecalc := by
  intro s hs hw hdom
  obtain ⟨t, evs, hx, he, hrate, -⟩ := setRateCompletes s hs hdom
  refine ⟨t, hx, fun h0 => ?_, fun n hn hn0 hcfg hbank himage => ?_⟩
  · rw [← hrate]
    exact exec_recalcRate_cheap (he.ready hs) (by rw [hrate]; exact fun h => h0 (congrArg BitVec.toNat h))
  · obtain ⟨-, -, -, -, -, hlo, hhi, -⟩ := setRateProgramsFields s t hs hw hdom hx
    have hfield : ∀ f, n.field f = t.field f := fun f => State.field_congr hcfg (State.stored_congr hbank himage _)
    obtain ⟨u, hxu, hres⟩ := exec_recalcRate_readBack hn (by rwa [hcfg, he.cfg]) hn0
    rw [hfield, hfield, hcfg, he.cfg, hlo, hhi, ← loopDiv_eq, loopFields_value] at hres
    exact ⟨u, hxu, hres, quantizedRate_near⟩

end Sys2Proof.Machine

/-! PROOFS. RESTORE of a saved cache (45 R182, R183). -/

namespace Sys2Proof.Machine

/-! ### SET_RATE of another operand -/

/-- A body step changes no interface, so it is one over any other interfaces too. -/
theorem BodyStep.withIfaces {s t : State} {evs : List Event} (h : BodyStep s t evs) (i : List (Nat × Iface)) :
    BodyStep (s.withIfaces i) (t.withIfaces i) evs := by
  obtain ⟨e, b, p, l, r, c, k, rfl, hwf⟩ := h
  exact ⟨e, b, p, l, r, c, k, rfl, hwf⟩

theorem rateTransaction_setIface (t a : Nat) (f : Iface) (s : State) :
    rateTransaction t (s.setIface a f) = (rateTransaction t s).withIfaces (s.setIface a f).ifaces :=
  rateTransaction_withIfaces _ s t

/-- SET_RATE at another interface of the running agent: the events of the transaction with that interface's operand,
and the bytes the transaction leaves (43 R155). -/
theorem exec_setRate_setIface {s : State} {f : Iface} {evs : List Event} (hs : Ready s)
    (hdom : s.cfg.sscEnabled = true → f.arg0.toNat < 5404319539200000)
    (hbody : BodyStep s (rateTransaction f.arg0.toNat s) evs) :
    ∃ x, exec .setRate (s.setIface s.turn f) = .next x ∧
      x.history = s.history ++ (evs ++ [.cmdEnd s.turn 0x11 .ok]) ∧ SameBytes (rateTransaction f.arg0.toNat s) x := by
  have harg : (s.setIface s.turn f).arg0 = f.arg0.toNat := by simp [State.arg0]
  have hbody' := hbody.withIfaces (s.setIface s.turn f).ifaces
  rw [← rateTransaction_setIface, ← harg] at hbody'
  obtain ⟨x, hx, he, -, hbytes, -⟩ := exec_setRate (s := s.setIface s.turn f) hs (by rwa [harg]) hbody'
  rw [harg, rateTransaction_setIface] at hbytes
  have hcfg := he.cfg
  obtain ⟨-, -, -, hhistory⟩ := he
  exact ⟨x, hx, hhistory, hcfg.trans hbody.cfg.symm, hbytes⟩

/-! ### Whole-byte writes -/

/-- A sequence of whole-byte writes leaves a byte at an offset where that is what it writes there, or finds there. -/
theorem runOps_bytes_stored (l : List (RegName × Byte)) {s : State} {off : Nat} {b : Byte}
    (hall : ∀ x ∈ l, s.cfg.offset x.1 = off → x.2 = b)
    (hsome : s.stored off = b ∨ ∃ x ∈ l, s.cfg.offset x.1 = off) :
    (runOps (l.map (fun x => .byte x.1 x.2)) s).stored off = b := by
  induction l generalizing s with
  | nil => exact hsome.resolve_right (by simp)
  | cons x rest ih =>
    have hc : (s.regWrite x.1 x.2).cfg = s.cfg := (s.regWrite_bankStep x.1 x.2).cfg
    refine ih (s := s.regWrite x.1 x.2) (fun y hy ho => hall y (List.mem_cons_of_mem x hy) (hc ▸ ho)) ?_
    rw [hc]
    by_cases hx : s.cfg.offset x.1 = off
    · subst hx
      exact .inl ((State.memWrite_stored_same _ _ _).trans (hall x List.mem_cons_self rfl))
    · have hkept : (s.regWrite x.1 x.2).stored off = s.stored off := State.memWrite_stored_other (Ne.symm hx) _ _
      rw [hkept]
      exact hsome.imp_right fun ⟨y, hy, ho⟩ =>
        ⟨y, (List.mem_cons.mp hy).resolve_left (fun he => hx (he ▸ ho)), ho⟩

/-- RESTORE's writes are the cache's bytes in the order of the captured registers (45 R182). -/
theorem restoreOps_eq (c : Cache) :
    restoreOps c = (capturedRegs.map (fun r => (r, c.byte r))).map (fun x => .byte x.1 x.2) := rfl

theorem restoreOps_bytesKept (c : Cache) (s : State) : BytesKept capturedRegs s (runOps (restoreOps c) s) := by
  refine fun off hoff => runOps_stored_other fun o ho r hr => hoff r ?_
  rw [restoreOps_eq, List.map_map] at ho
  obtain ⟨r', hr', rfl⟩ := List.mem_map.mp ho
  exact List.mem_singleton.mp hr ▸ hr'

/-- A captured register holds its byte again, where none at its offset captured another (45 R182). -/
theorem restoreOps_stored (c : Cache) {p : Params} {s : State} (hp : s.cfg = p) {r : RegName}
    (hr : r ∈ capturedRegs) (hsame : ∀ r' ∈ capturedRegs, p.offset r' = p.offset r → c.byte r' = c.byte r) :
    (runOps (restoreOps c) s).stored (p.offset r) = c.byte r := by
  subst hp
  rw [restoreOps_eq]
  refine runOps_bytes_stored _ (fun x hx ho => ?_) (.inr ⟨_, List.mem_map_of_mem hr, rfl⟩)
  obtain ⟨r', hr', rfl⟩ := List.mem_map.mp hx
  exact hsame r' hr' ho

/-! ### The outcome draw -/

theorem SameBytes.symm {s t : State} (h : SameBytes s t) : SameBytes t s :=
  ⟨h.1.symm, fun off => (h.2 off).symm⟩

/-- The draw that follows RESTORE's rate transaction, and the state after it (45 R183). -/
def restoreDraw (c : Cache) (s : State) : Bool × State := (rateTransaction c.rate.toNat s).drawRestore

section
variable (c : Cache) (s : State)

theorem restoreDraw_bankStep : BankStep (rateTransaction c.rate.toNat s) (restoreDraw c s).2 :=
  State.drawRestore_bankStep _

theorem restoreDraw_sameBytes : SameBytes (rateTransaction c.rate.toNat s) (restoreDraw c s).2 := by
  obtain ⟨e, h⟩ := (rateTransaction c.rate.toNat s).drawRestore_env
  rw [restoreDraw, h]
  exact ⟨rfl, fun _ => rfl⟩

/-- The draw is the first answer listed for it: the transaction takes none of them (45 R183). -/
theorem restoreDraw_listed (d : Bool) (ds : List Bool) (h : s.env.restore = d :: ds) : (restoreDraw c s).1 = d := by
  rw [← rateTransaction_restore s c.rate.toNat] at h
  simp [restoreDraw, State.drawRestore, h]

end

section
variable {c : Cache} {s : State}

theorem restoreRun_of_draw (h : (restoreDraw c s).1 = true) :
    restoreRun c s = (.ok, (runOps (restoreOps c) (restoreDraw c s).2).setCacheStatus .consumed) := if_pos h

theorem restoreRun_of_not_draw (h : (restoreDraw c s).1 = false) :
    restoreRun c s = (.lockTimeout, (restoreDraw c s).2) := if_neg (Bool.eq_false_iff.mp h)

end

/-- Whatever the draw, the transaction's rate stays committed and `locked` cleared (45 R183). -/
theorem restoreRun_committed (c : Cache) (s : State) :
    (restoreRun c s).2.currentVcoRate = c.rate ∧ (restoreRun c s).2.locked = false := by
  have hdraw := restoreDraw_bankStep c s
  have hrate := hdraw.currentVcoRate.trans (rateTransaction_currentVcoRate c.rate s)
  have hlocked := hdraw.locked.trans (rateTransaction_locked c.rate.toNat s)
  cases h : (restoreDraw c s).1 with
  | false =>
    rw [restoreRun_of_not_draw h]
    exact ⟨hrate, hlocked⟩
  | true =>
    have hwrites := runOps_bankStep (restoreOps c) (restoreDraw c s).2
    rw [restoreRun_of_draw h]
    exact ⟨hwrites.currentVcoRate.trans hrate, hwrites.locked.trans hlocked⟩

/-- The events of RESTORE's four whole-byte writes (45 R182). -/
def restoreEvents (p : Params) (c : Cache) : List Event :=
  [.write (p.offset .vcoCntrl) c.vcoCntrl, .write (p.offset .cpBias) c.cpBias,
    .write (p.offset .pllCntrl) c.pllCntrl, .write (p.offset .pixdiv) c.pixdiv]

theorem restoreOps_body (c : Cache) (s : State) :
    BodyStep s (runOps (restoreOps c) s) (restoreEvents s.cfg c) :=
  runOps_bytes_body (capturedRegs.map (fun r => (r, c.byte r))) s

section
variable {c : Cache} {s : State} {evs : List Event} (hbody : BodyStep s (rateTransaction c.rate.toNat s) evs)
include hbody

theorem restoreDraw_body : BodyStep s (restoreDraw c s).2 evs :=
  List.append_nil evs ▸ hbody.trans (drawRestore_body _)

theorem restoreRun_body_of_draw (h : (restoreDraw c s).1 = true) :
    BodyStep s (restoreRun c s).2 (evs ++ restoreEvents s.cfg c) := by
  have hdraw := restoreDraw_body hbody
  rw [restoreRun_of_draw h, ← hdraw.cfg]
  exact (hdraw.trans (restoreOps_body c _)).setCacheStatus .consumed

theorem restoreRun_body_of_not_draw (h : (restoreDraw c s).1 = false) : BodyStep s (restoreRun c s).2 evs := by
  rw [restoreRun_of_not_draw h]
  exact restoreDraw_body hbody

end

/-! ### RESTORE -/

/-- RESTORE of a saved cache whose rate is inside the domain is its run (45 R182). -/
theorem bodyOf_restore {s : State} (hsaved : s.cacheStatus ≠ .empty)
    (hdom : s.cfg.sscEnabled = true → s.cache.rate.toNat < 5404319539200000) :
    bodyOf .restore s = .completes (restoreRun s.cache s).1 ((restoreRun s.cache s).2.setAll []) := by
  rw [bodyOf, restoreBody, if_neg hsaved, if_neg (not_rateRefused hdom)]
  rfl

/-- RESTORE of a saved cache ends with the events and the error code of its run, the cached rate committed. -/
theorem exec_restore {s : State} {evs : List Event} (hs : Ready s) (hsaved : s.cacheStatus ≠ .empty)
    (hdom : s.cfg.sscEnabled = true → s.cache.rate.toNat < 5404319539200000)
    (hbody : BodyStep s (restoreRun s.cache s).2 evs) :
    ∃ t, exec .restore s = .next t ∧ Ends 0x41 (restoreRun s.cache s).1 [] evs s t ∧
      (t.currentVcoRate = s.cache.rate ∧ t.locked = false ∧ t.poweredOn = s.poweredOn ∧ t.cache = s.cache) ∧
      t.cacheStatus = (restoreRun s.cache s).2.cacheStatus ∧ SameBytes (restoreRun s.cache s).2 t := by
  obtain ⟨hx, he⟩ := exec_completes hs (bodyOf_restore hsaved hdom) hbody (by simp)
  obtain ⟨⟨hp, hl, hr, hc, hk⟩, -⟩ := finished_untouched 0x41 (restoreRun s.cache s).1 [] (restoreRun s.cache s).2
  obtain ⟨hr', hl'⟩ := restoreRun_committed s.cache s
  obtain ⟨hp', hc', -⟩ := restoreRun_runtime s.cache s
  exact ⟨_, hx, he, ⟨hr.trans hr', hl.trans hl', hp.trans hp', hc.trans hc'⟩, hk, finished_sameBytes _ _ _ _⟩

/-- Settles O56: SET_RATE of the cached rate and RESTORE run the same transaction, and the draw decides what follows. -/
theorem restoreFollowsDraw : Obligations.RestoreFollowsDraw := by
  intro s hs hsaved hdom
  obtain ⟨revs, hrate⟩ := rateTransaction_body s.cache.rate.toNat s
  obtain ⟨x, hxx, hhistory, hux⟩ :=
    exec_setRate_setIface (f := { s.iface s.turn with arg0 := s.cache.rate }) hs hdom hrate
  have hout : ∀ off, OutsideRate s.cfg off → x.stored off = s.stored off := fun off ho =>
    (hux.2 off).trans (rateTransaction_stored_other _ ho)
  have hlisted := restoreDraw_listed s.cache s
  have huv := restoreDraw_sameBytes s.cache s
  have hxv := hux.symm.trans huv
  cases hd : (restoreDraw s.cache s).1 with
  | true =>
    obtain ⟨t, hx, he, ⟨hr, hl, hp, hc⟩, hk, hvt⟩ :=
      exec_restore hs hsaved hdom (restoreRun_body_of_draw hrate hd)
    rw [restoreRun_of_draw hd] at he hk hvt
    refine ⟨t, x, true, revs, hx, hxx, hhistory, hd ▸ hlisted, hout, hr, hl, hp, hc,
      fun _ => ⟨he, hk, fun r hmem hsame => ?_, (restoreOps_bytesKept s.cache _).congr hxv hvt⟩, nofun⟩
    exact (hvt.2 _).trans (restoreOps_stored s.cache (huv.1.trans hrate.cfg) hmem hsame)
  | false =>
    obtain ⟨t, hx, he, ⟨hr, hl, hp, hc⟩, hk, hvt⟩ :=
      exec_restore hs hsaved hdom (restoreRun_body_of_not_draw hrate hd)
    rw [restoreRun_of_not_draw hd] at he hk hvt
    obtain ⟨-, -, hstatus⟩ := rateTransaction_runtime s.cache.rate.toNat s
    exact ⟨t, x, false, revs, hx, hxx, hhistory, hd ▸ hlisted, hout, hr, hl, hp, hc, nofun,
      fun _ => ⟨he, hk.trans ((restoreDraw_bankStep _ s).cacheStatus.trans hstatus), (hxv.trans hvt).2⟩⟩

end Sys2Proof.Machine

/-! PROOFS. The counts of the lock poll, UNPREPARE, ENABLE, and the lifecycle commands that find nothing to do
(44 R161, R162, R165, R168, R169). -/

namespace Sys2Proof.Machine

/-! ### The lock poll -/

/-- Settles O38: what the poll records and writes, from the induction over its attempts in `lockPollFrom_spec`. -/
theorem lockPollCounts : Obligations.LockPollCounts := lockPoll_polled

/-! ### Nothing to do -/

theorem bodyOf_prepare_on {s : State} (hon : s.poweredOn = true) :
    bodyOf .prepare s = .completes .ok (s.setAll []) := by
  simp only [bodyOf, prepareBody, hon]
  rfl

theorem bodyOf_unprepare_off {s : State} (hoff : s.poweredOn = false) :
    bodyOf .unprepare s = .completes .ok (s.setAll []) := by
  simp only [bodyOf, unprepareBody, hoff]
  rfl

theorem bodyOf_enable_off {s : State} (hoff : s.poweredOn = false) :
    bodyOf .enable s = .completes .ok (s.setAll []) := by
  simp only [bodyOf, enableBody, hoff]
  rfl

/-- Settles O41: either body leaves the state as it is. -/
theorem lifecycleNoOps : Obligations.LifecycleNoOps := fun _ hs =>
  ⟨fun hon => exec_results hs (bodyOf_prepare_on hon) (by simp),
    fun hoff => exec_results hs (bodyOf_unprepare_off hoff) (by simp)⟩

/-! ### What a sequence keeps -/

/-- A sequence keeps every byte outside the registers it writes. -/
theorem runOps_bytesKept {l : List RegOp} {rs : List RegName} (h : ∀ o ∈ l, ∀ r ∈ o.writes, r ∈ rs) (s : State) :
    BytesKept rs s (runOps l s) := fun _ hoff =>
  runOps_stored_other fun o ho r hr => hoff r (h o ho r hr)

/-- A sequence keeps every named field that it avoids. -/
theorem runOps_fieldsKept {l : List RegOp} {as : List FieldName} {s : State} (hw : s.cfg.wellFormed = true)
    (h : ∀ a, a ∉ as → ∀ o ∈ l, o.avoids s.cfg (s.cfg.fd a)) : FieldsKept as s (runOps l s) := fun a ha hl hr =>
  runOps_field (.of_wellFormed hw hl hr) (h a ha)

/-! ### UNPREPARE -/

theorem unprepareOps_writes (p : Params) :
    ∀ o ∈ unprepareOps p, ∀ r ∈ o.writes, r ∈ [RegName.sscGateReg, .pllCntrl, .pwrupCtrl] := by
  simp [unprepareOps, RegOp.writes, Params.fd]

/-- The override pair lies in one register, so it is one write (42 R125). -/
theorem unprepareOps_trace (p : Params) : (unprepareOps p).flatMap (RegOp.trace p) =
    [.inl (p.offset .sscGateReg), .inr p.tUnpGate, .inl (p.offset .pllCntrl), .inr p.tUnpClksel,
      .inl (p.offset .pwrupCtrl), .inr p.tUnpOvr] := rfl

section
variable {s : State} (hw : s.cfg.wellFormed = true)
include hw

theorem unprepareOps_avoids {a : FieldName} (ha : a ∉ [FieldName.sscGate, .clksel, .ovrEn, .ovr]) :
    ∀ o ∈ unprepareOps s.cfg, o.avoids s.cfg (s.cfg.fd a) := by
  simp only [List.mem_cons, List.not_mem_nil, or_false, not_or] at ha
  obtain ⟨hgate, hclk, hen, hovr⟩ := ha
  simp only [unprepareOps, List.forall_mem_cons]
  exact ⟨wf_avoids_field hw hgate _, trivial, wf_avoids_field hw hclk _, trivial,
    wf_avoids_field2 hw hen hovr (by decide) _ _, trivial, nofun⟩

/-- Each field holds what the sequence last writes to it: no later write touches it (44 R168). -/
theorem runOps_unprepareOps_fields :
    (runOps (unprepareOps s.cfg) s).field (s.cfg.fd .sscGate) = 0 ∧
    (runOps (unprepareOps s.cfg) s).field (s.cfg.fd .clksel) = 0 ∧
    (runOps (unprepareOps s.cfg) s).field (s.cfg.fd .ovrEn) = 1 ∧
    (runOps (unprepareOps s.cfg) s).field (s.cfg.fd .ovr) = 0 := by
  have hgate : LastWrite s.cfg (s.cfg.fd .sscGate) 0 (unprepareOps s.cfg) := by
    refine ⟨[], _, rfl, ?_⟩
    simp only [List.forall_mem_cons]
    exact ⟨trivial, wf_avoids_field hw (by decide) _, trivial,
      wf_avoids_field2 hw (by decide) (by decide) (by decide) _ _, trivial, nofun⟩
  have hclk : LastWrite s.cfg (s.cfg.fd .clksel) 0 (unprepareOps s.cfg) := by
    refine ⟨[_, _], _, rfl, ?_⟩
    simp only [List.forall_mem_cons]
    exact ⟨trivial, wf_avoids_field2 hw (by decide) (by decide) (by decide) _ _, trivial, nofun⟩
  have hpair := wf_lastWrite_field2 hw (a := .ovrEn) (b := .ovr) (v := 1) (w := 0) (l' := [.delay s.cfg.tUnpOvr])
    (by decide) (by decide) (by decide) (show 1 < 2 ^ 1 by decide) (Nat.two_pow_pos _) ((unprepareOps s.cfg).take 4)
    (List.forall_mem_singleton.mpr ⟨trivial, trivial⟩)
  exact ⟨wf_lastWrite_field hw (by decide) (by decide) hgate (Nat.two_pow_pos _),
    wf_lastWrite_field hw (by decide) (by decide) hclk (Nat.two_pow_pos _), hpair⟩

end

/-- UNPREPARE while on runs its sequence and clears both flags (44 R168). -/
theorem bodyOf_unprepare_on {s : State} (hon : s.poweredOn = true) : bodyOf .unprepare s =
    .completes .ok ((((runOps (unprepareOps s.cfg) s).setPoweredOn false).setLocked false).setAll []) := by
  simp only [bodyOf, unprepareBody, hon]
  rfl

theorem State.setPoweredOn_sameBytes (b : Bool) (s : State) : SameBytes s (s.setPoweredOn b) := ⟨rfl, fun _ => rfl⟩

theorem State.setLocked_sameBytes (b : Bool) (s : State) : SameBytes s (s.setLocked b) := ⟨rfl, fun _ => rfl⟩

/-- Settles O44: the sequence decides the bank and the events, the two updates after it the flags. -/
theorem unprepareEffect : Obligations.UnprepareEffect := by
  intro s hs hon hw
  have hb := bodyOf_unprepare_on hon
  have hseq := runOps_bankStep (unprepareOps s.cfg) s
  obtain ⟨evs, hbody, htrace⟩ := runOps_trace (unprepareOps s.cfg) s
  obtain ⟨hgate, hclk, hen, hovr⟩ := runOps_unprepareOps_fields hw
  have hfields := runOps_fieldsKept hw fun _ => unprepareOps_avoids hw
  have hbytes := runOps_bytesKept (unprepareOps_writes s.cfg) s
  generalize runOps (unprepareOps s.cfg) s = u at *
  obtain ⟨hx, he⟩ := exec_completes hs hb ((hbody.setPoweredOn false).setLocked false) (by simp)
  obtain ⟨⟨hp, hl, hr, hc, hk⟩, -⟩ :=
    finished_untouched (opcode .unprepare) .ok [] ((u.setPoweredOn false).setLocked false)
  have hsame := ((u.setPoweredOn_sameBytes false).trans (State.setLocked_sameBytes false _)).trans
    (finished_sameBytes (opcode .unprepare) .ok [] _)
  exact ⟨_, evs, hx, he, hp, hl, hr.trans hseq.currentVcoRate, hc.trans hseq.cache, hk.trans hseq.cacheStatus,
    (hsame.field _).trans hgate, (hsame.field _).trans hclk, (hsame.field _).trans hen, (hsame.field _).trans hovr,
    hfields.congr (.refl s) hsame, hbytes.congr (.refl s) hsame, htrace.trans (unprepareOps_trace s.cfg)⟩

/-! ### ENABLE -/

/-- ENABLE while on writes the gate bit, then issues the barrier (44 R169). -/
theorem bodyOf_enable_on {s : State} (hon : s.poweredOn = true) :
    bodyOf .enable s = .completes .ok ((s.fieldWrite (s.cfg.fd .sscGate) 1).barrier.setAll []) := by
  simp only [bodyOf, enableBody, hon]
  rfl

theorem State.barrier_bankStep (s : State) : BankStep s s.barrier := .of_record .barrier s

theorem State.barrier_body (s : State) : BodyStep s s.barrier [.barrier] := .of_record .barrier s

theorem State.barrier_sameBytes (s : State) : SameBytes s s.barrier := ⟨rfl, fun _ => rfl⟩

/-- Settles O45: while on, the write of a one-bit field decides the bank, and the barrier adds its event alone. -/
theorem enableEffect : Obligations.EnableEffect := by
  refine fun s hs => ⟨fun hoff => exec_results hs (bodyOf_enable_off hoff) (by simp), fun hon hw => ?_⟩
  obtain ⟨evs, hmerge, hbody⟩ := State.fieldWrite_merge (f := s.cfg.fd .sscGate) (show 1 ≠ 8 by decide) 1 s
  obtain ⟨t, hx, he, hrun, hsame⟩ := exec_bankStep hs (bodyOf_enable_on hon)
    ((s.fieldWrite_bankStep _ 1).trans (State.barrier_bankStep _)) (hbody.trans (State.barrier_body _)) (by simp)
  have hbank := (State.barrier_sameBytes _).trans hsame
  exact ⟨t, evs, hx, he, hmerge, hrun, (hbank.field _).trans (wf_field_write hw .sscGate 1),
    (wf_fieldsKept hw .sscGate 1).congr (.refl s) hbank, (s.fieldWrite_bytesKept _ 1).congr (.refl s) hbank⟩

end Sys2Proof.Machine

/-! PROOFS. Power collapse, SAVE, and SAVE followed by RESTORE (45 R181 to R185). -/

namespace Sys2Proof.Machine

/-! ### Power collapse -/

/-- A scheduled power collapse is the whole step of an unmarked block (45 R185). -/
theorem step_powerCollapse {s : State} {rest : List Turn} (hf : s.fault = none) (hr : s.refused = none)
    (hs : s.schedule = .powerCollapse :: rest) : step s = .next (powerCollapse (s.withSchedule rest)) := by
  rw [step_eq hf hr, nextMove, hs]
  rfl

/-- With nothing in progress a collapse draws an image, lists nothing over it and records itself (45 R185). -/
theorem powerCollapse_of_idle {s : State} (h : s.inProgress = []) : powerCollapse s =
    { s with bank := [], image := s.drawImage.1, env := s.drawImage.2.env,
             history := s.history ++ [.powerCollapse] } := by
  obtain ⟨e, hd⟩ := s.drawImage_env
  simp only [powerCollapse, h, hd]
  rfl

theorem powerCollapse_of_busy {s : State} (h : s.inProgress ≠ []) : powerCollapse s = s := by
  obtain ⟨e, l, hl⟩ := List.exists_cons_of_ne_nil h
  simp only [powerCollapse, hl]

theorem State.drawImage_listed {s : State} {im : List Host.Cell} {ims : List (List Host.Cell)}
    (h : s.env.images = im :: ims) : s.drawImage.1 = im := by
  simp only [State.drawImage, h]

/-- A bank that lists nothing reads as its image (20 R45). -/
theorem State.stored_of_bank_nil {s : State} (h : s.bank = []) (off : Nat) : s.stored off = imageByte s.image off := by
  simp only [State.stored, h]
  rfl

/-- Settles O17: the collapse is the scheduled move, which draws the image when nothing is in progress. -/
theorem powerCollapseLosesBankOnly : Obligations.PowerCollapseLosesBankOnly := by
  intro s rest hf hr hs
  rw [step_powerCollapse hf hr hs]
  refine ⟨fun hidle => ?_, fun hbusy => ?_⟩
  · rw [powerCollapse_of_idle (s := s.withSchedule rest) hidle]
    refine ⟨_, rfl, rfl, fun im ims him off => ?_⟩
    rw [State.stored_of_bank_nil rfl, State.drawImage_listed (s := s.withSchedule rest) him]
  · rw [powerCollapse_of_busy (s := s.withSchedule rest) hbusy]
    rfl

/-! ### RESTORE before any SAVE -/

/-- A ready block whose command faults gets the mark and nothing else (60 R200.2). -/
theorem exec_faults {i : Instr} {s : State} {r : Fault} (hs : Ready s) (hb : bodyOf i s = .faults r) :
    exec i s = .next (s.raiseFault r) := by
  obtain ⟨hf, hr, hc⟩ := hs
  simp [exec_eq, runCommand, State.stuck?_eq_none.mpr ⟨hf, hr⟩, hc, hb]

/-- Settles O55: the body looks at `cache_status` first. -/
theorem restoreNeverSavedFaults : Obligations.RestoreNeverSavedFaults := fun _ hs hempty =>
  exec_faults (i := .restore) hs (if_pos hempty)

/-! ### The captured bytes -/

/-- A register whose offset holds no volatile field reads as stored (20 R45). -/
theorem State.regRead_plain {s t : State} {r : RegName} (hr : PlainOffset s.cfg r) (h : SameBytes s t) :
    (t.regRead r).1 = s.stored (s.cfg.offset r) := by
  obtain ⟨hc, hbytes⟩ := h
  obtain ⟨hlock, hsys⟩ := hr
  rw [State.regRead, hc, State.memRead_plain (by rwa [hc]) (by rwa [hc])]
  exact hbytes _

theorem State.regRead_sameBytes (r : RegName) (s : State) : SameBytes s (s.regRead r).2 :=
  ⟨s.regRead_cfg r, s.regRead_stored r⟩

/-- The events of SAVE's four reads (45 R181). -/
def captureEvents (p : Params) (c : Cache) : List Event :=
  [.read (p.offset .vcoCntrl) c.vcoCntrl, .read (p.offset .cpBias) c.cpBias,
    .read (p.offset .pllCntrl) c.pllCntrl, .read (p.offset .pixdiv) c.pixdiv]

section
variable (s : State)

theorem captureBytes_sameBytes : SameBytes s (captureBytes s).2 :=
  ⟨(captureBytes_bankStep s).cfg, fun off => by simp only [captureBytes, State.regRead_stored]⟩

theorem captureBytes_reads : BodyStep s (captureBytes s).2 (captureEvents s.cfg (captureBytes s).1) := by
  simp only [captureBytes, captureEvents]
  have h := (((s.regRead_body .vcoCntrl).trans (State.regRead_body .cpBias _)).trans
    (State.regRead_body .pllCntrl _)).trans (State.regRead_body .pixdiv _)
  simpa only [State.regRead_cfg, List.cons_append, List.nil_append] using h

/-- The cache takes the stored byte of each captured register that holds no volatile field (45 R181). -/
theorem captureBytes_plain : ∀ r ∈ capturedRegs, PlainOffset s.cfg r →
    (captureBytes s).1.byte r = s.stored (s.cfg.offset r) := by
  have ha := s.regRead_sameBytes .vcoCntrl
  have hb := ha.trans (State.regRead_sameBytes .cpBias _)
  have hc := hb.trans (State.regRead_sameBytes .pllCntrl _)
  simp only [capturedRegs, List.forall_mem_cons, captureBytes, Cache.byte]
  exact ⟨fun h => State.regRead_plain h (.refl s), fun h => State.regRead_plain h ha,
    fun h => State.regRead_plain h hb, fun h => State.regRead_plain h hc, nofun⟩

end

/-! ### The captured rate -/

/-- The rate that SAVE captures and its read-back events: 0 on a miss, else what RecalcRate gives (45 R181). -/
def CapturesRate (s : State) (hit : Bool) (r : Nat) (revs : List Event) : Prop :=
  (hit = false → r = 0 ∧ revs = []) ∧
  (hit = true → s.currentVcoRate ≠ 0 → r = s.currentVcoRate.toNat ∧ revs = []) ∧
  (hit = true → s.currentVcoRate = 0 →
    (∃ b c, revs = [.read (s.cfg.offset .loopDivLo) b, .read (s.cfg.offset .loopDivHi) c]) ∧
    (s.cfg.wellFormed = true →
      r = 19200000 * (64 * s.field (s.cfg.fd .loopHi) + s.field (s.cfg.fd .loopLo)) / 4))

theorem CapturesRate.congr {s t : State} {hit : Bool} {r : Nat} {revs : List Event} (h : CapturesRate t hit r revs)
    (hsame : SameBytes s t) (hrate : t.currentVcoRate = s.currentVcoRate) : CapturesRate s hit r revs := by
  unfold CapturesRate at h ⊢
  rwa [hrate, hsame.field, hsame.field, hsame.1] at h

theorem recalcRate_capturesRate (s : State) :
    ∃ revs, BodyStep s (recalcRate s).2 revs ∧ CapturesRate s true (recalcRate s).1 revs := by
  by_cases h : s.currentVcoRate = 0
  · obtain ⟨b, c, hbody⟩ := recalcRate_readBack_body h
    exact ⟨_, hbody, nofun, fun _ hne => absurd h hne,
      fun _ _ => ⟨⟨b, c, rfl⟩, fun hw => recalcRate_readBack_value hw h⟩⟩
  · rw [recalcRate_cheap h]
    exact ⟨[], .refl s, nofun, fun _ _ => ⟨rfl, rfl⟩, fun _ h0 => absurd h0 h⟩

section
variable {s : State}

theorem captureRate_of_hit (h : (lockPoll s).1 = true) : captureRate s = recalcRate (lockPoll s).2 := if_pos h

theorem captureRate_of_miss (h : (lockPoll s).1 = false) : captureRate s = (0, (lockPoll s).2) :=
  if_neg (Bool.eq_false_iff.mp h)

end

theorem captureRate_bankStep (s : State) : BankStep (lockPoll s).2 (captureRate s).2 := by
  cases h : (lockPoll s).1 with
  | true => exact captureRate_of_hit h ▸ recalcRate_bankStep _
  | false => exact captureRate_of_miss h ▸ .refl _

theorem captureRate_sameBytes (s : State) : SameBytes (lockPoll s).2 (captureRate s).2 := by
  cases h : (lockPoll s).1 with
  | true => exact captureRate_of_hit h ▸ recalcRate_sameBytes _
  | false => exact captureRate_of_miss h ▸ .refl _

/-- After its poll SAVE reads back at most the loop fields, and captures the rate by the poll's outcome (45 R181). -/
theorem captureRate_capturesRate (s : State) : ∃ revs, BodyStep (lockPoll s).2 (captureRate s).2 revs ∧
    CapturesRate (lockPoll s).2 (lockPoll s).1 (captureRate s).1 revs := by
  cases h : (lockPoll s).1 with
  | true => exact captureRate_of_hit h ▸ recalcRate_capturesRate _
  | false => exact captureRate_of_miss h ▸ ⟨[], .refl _, fun _ => ⟨rfl, rfl⟩, nofun, nofun⟩

/-! ### SAVE -/

theorem State.setCache_sameBytes (c : Cache) (s : State) : SameBytes s (s.setCache c) := ⟨rfl, fun _ => rfl⟩

theorem State.setCacheStatus_sameBytes (k : CacheStatus) (s : State) : SameBytes s (s.setCacheStatus k) :=
  ⟨rfl, fun _ => rfl⟩

section
variable (s : State)

/-- SAVE reports the rate that it captured (45 R181). -/
theorem bodyOf_save :
    bodyOf .save s = .completes .ok ((saved s).setAll [(0, (captureRate (captureBytes s).2).1)]) :=
  congrArg (Ending.completes .ok) (saveBody_eq s)

/-- SAVE polls once: what it captures after the poll leaves `locked` at the outcome (45 R181). -/
theorem saved_locked : (saved s).locked = (lockPoll (captureBytes s).2).1 := by
  rw [saved, State.setCacheStatus_locked, State.setCache_locked]
  exact (captureRate_bankStep _).locked.trans (lockPoll_locked _)

theorem saved_sameBytes : SameBytes s (saved s) :=
  (((captureBytes_sameBytes s).trans (lockPoll_sameBytes _)).trans (captureRate_sameBytes _)).trans
    ((State.setCache_sameBytes _ _).trans (State.setCacheStatus_sameBytes _ _))

end

/-- Settles O54: four reads, the poll, and the read-back that its outcome asks for. -/
theorem saveCaptures : Obligations.SaveCaptures := by
  intro s hs
  obtain ⟨pevs, hp, hpoll⟩ := lockPoll_polled_body (captureBytes s).2
  obtain ⟨revs, hread, hrate⟩ := captureRate_capturesRate (captureBytes s).2
  have hbody := (((captureBytes_reads s).trans hpoll).trans hread).setCache
    { (captureBytes s).1 with rate := BitVec.ofNat 64 (captureRate (captureBytes s).2).1 }
  obtain ⟨hx, he⟩ := exec_completes hs (bodyOf_save s) (hbody.setCacheStatus .valid) (by simp)
  obtain ⟨⟨hpow, hlk, hvco, hc, hk⟩, hbytes, -⟩ :=
    finished_untouched (opcode .save) .ok [(0, (captureRate (captureBytes s).2).1)] (saved s)
  obtain ⟨hpow', hvco', hk'⟩ := saved_runtime s
  rw [(captureBytes_bankStep s).cfg] at hp
  obtain ⟨-, hpollrate, -⟩ := lockPoll_sameButLocked (captureBytes s).2
  have hcaptured := hrate.congr ((captureBytes_sameBytes s).trans (lockPoll_sameBytes _))
    (hpollrate.trans (captureBytes_bankStep s).currentVcoRate)
  refine ⟨_, _, _, _, _, _, pevs, revs, _, hx, he, hp, hlk.trans (saved_locked s), hpow.trans hpow', hvco.trans hvco',
    hc, hk.trans hk', fun off => (hbytes off).trans ((saved_sameBytes s).2 off), fun x hmem => ?_, hcaptured⟩
  obtain ⟨r, hr, rfl⟩ := List.mem_map.mp
    (show x ∈ capturedRegs.map (fun r => (r, (captureBytes s).1.byte r)) from hmem)
  exact captureBytes_plain s r hr

/-! ### SAVE, then RESTORE -/

theorem Ends.err {op : Byte} {e : ErrCode} {rs : List (Fin 6 × Nat)} {evs : List Event} {s t : State}
    (h : Ends op e rs evs s t) : (t.iface t.turn).err = e.code := by
  obtain ⟨⟨_, _, _, _, _, _, _, hturn⟩, _, ⟨_, _, _, herr, _⟩, _⟩ := h
  rw [hturn]
  exact herr

/-- RECALC_RATE of a ready block reports what RecalcRate gives (43 R157). -/
theorem exec_recalcRate {s : State} (hs : Ready s) : ∃ a, exec .recalcRate s = .next a ∧
    (a.iface a.turn).readRes 0 = some (BitVec.ofNat 64 (recalcRate s).1) := by
  obtain ⟨evs, hbody⟩ := recalcRate_body s
  obtain ⟨hx, he⟩ := exec_completes (i := .recalcRate) (rs := [(0, (recalcRate s).1)]) hs rfl hbody (by simp)
  exact ⟨_, hx, he.readRes List.mem_cons_self⟩

/-- In a well-formed configuration a hit captures what RecalcRate gives (45 R181). -/
theorem CapturesRate.eq_recalcRate {s : State} {r : Nat} {revs : List Event} (h : CapturesRate s true r revs)
    (hw : s.cfg.wellFormed = true) : r = (recalcRate s).1 := by
  obtain ⟨-, hcheap, hread⟩ := h
  rw [recalcRate_value hw]
  split_ifs with h0
  · exact (hread rfl h0).2 hw
  · exact (hcheap rfl h0).1

/-- A SAVE whose poll hits leaves a cache of the stored bytes and the rate that RECALC_RATE gives (45 R181). -/
theorem exec_save_hit {s t : State} (hs : Ready s) (hw : s.cfg.wellFormed = true)
    (hplain : ∀ r ∈ capturedRegs, PlainOffset s.cfg r) (hx : exec .save s = .next t) (hlk : t.locked = true) :
    Ready t ∧ t.cfg = s.cfg ∧ t.cacheStatus = .valid ∧ t.cache.rate = BitVec.ofNat 64 (recalcRate s).1 ∧
      ∀ r ∈ capturedRegs, t.cache.byte r = s.stored (s.cfg.offset r) := by
  obtain ⟨t', b1, b2, b3, b4, r, pevs, revs, hit, hx', he, -, hlk', -, -, hcache, hstatus, -, hbytes, hrate⟩ :=
    saveCaptures s hs
  obtain rfl : t' = t := Host.Outcome.next.inj (hx'.symm.trans hx)
  obtain rfl : hit = true := hlk'.symm.trans hlk
  rw [hcache, ← CapturesRate.eq_recalcRate hrate hw]
  refine ⟨he.ready hs, he.cfg, hstatus, rfl, fun r hr => hbytes (r, _) ?_ (hplain r hr)⟩
  exact List.mem_map_of_mem (f := fun r => (r, Cache.byte ⟨b1, b2, b3, b4, _⟩ r)) hr

/-- A RESTORE of a saved cache that is not refused and reports OK has written the cache back (45 R182, R183). -/
theorem exec_restore_ok {s t : State} (hs : Ready s) (hsaved : s.cacheStatus ≠ .empty)
    (hx : exec .restore s = .next t) (href : t.refused = none) (herr : (t.iface t.turn).err = 0) :
    Ready t ∧ t.currentVcoRate = s.cache.rate ∧
      ∀ r ∈ capturedRegs, (∀ r' ∈ capturedRegs, s.cfg.offset r' = s.cfg.offset r →
        s.cache.byte r' = s.cache.byte r) → t.stored (s.cfg.offset r) = s.cache.byte r := by
  have hdom : s.cfg.sscEnabled = true → s.cache.rate.toNat < 5404319539200000 := by
    intro hssc
    by_contra hge
    have hr := rateRefused_iff.mpr ⟨Nat.not_lt.mp hge, hssc⟩
    have hmark := exec_refuses (i := .restore) hs ((if_neg hsaved).trans (if_pos hr))
    obtain rfl := Host.Outcome.next.inj (hmark.symm.trans hx)
    cases href
  obtain ⟨t', x, ok, revs, hx', -, -, -, -, hrate, -, -, -, hok, hmiss⟩ := restoreFollowsDraw s hs hsaved hdom
  obtain rfl : t' = t := Host.Outcome.next.inj (hx'.symm.trans hx)
  cases ok with
  | true =>
    obtain ⟨he, -, hbytes, -⟩ := hok rfl
    exact ⟨he.ready hs, hrate, hbytes⟩
  | false =>
    obtain ⟨he, -⟩ := hmiss rfl
    rw [he.err] at herr
    exact absurd herr (by decide)

/-- Settles O57: SAVE caches the bytes and the rate, and RESTORE writes the bytes and commits the rate. -/
theorem saveThenRestore : Obligations.SaveThenRestore := by
  intro s t u hs hw hplain hsave hlk hrestore href herr
  obtain ⟨ht, hcfg, hstatus, hcached, hbyte⟩ := exec_save_hit hs hw hplain hsave hlk
  obtain ⟨hu, hrate, hbytes⟩ := exec_restore_ok ht (by rw [hstatus]; decide) hrestore href herr
  rw [hcfg] at hbytes
  refine ⟨fun r hr => ?_, ?_⟩
  · have hsame : ∀ r' ∈ capturedRegs, s.cfg.offset r' = s.cfg.offset r → t.cache.byte r' = t.cache.byte r :=
      fun r' hr' ho => by rw [hbyte r' hr', hbyte r hr, ho]
    exact (hbytes r hr hsame).trans (hbyte r hr)
  · obtain ⟨a, ha, hva⟩ := exec_recalcRate hs
    obtain ⟨b, hb, hvb⟩ := exec_recalcRate hu
    refine ⟨a, b, _, ha, hb, hva, fun hne => ?_⟩
    have hcommit : u.currentVcoRate = BitVec.ofNat 64 (recalcRate s).1 := hrate.trans hcached
    rw [hvb, recalcRate_cheap (hcommit ▸ hne), BitVec.ofNat_toNat, BitVec.setWidth_eq, hcommit]

end Sys2Proof.Machine

/-! PROOFS. What one agent's step leaves to the others (60 R212), and operands out of range (60 R204). -/

namespace Sys2Proof.Machine

/-! ### The other agents -/

/-- Every agent but `a` has the interface and the host side it had (60 R212). -/
def OthersKept (a : Nat) (s t : State) : Prop :=
  ∀ b, b ≠ a → t.iface b = s.iface b ∧ t.host b = s.host b

/-- A host side depends on the list of host sides alone. -/
theorem State.host_congr {s t : State} (h : t.hosts = s.hosts) (a : Nat) : t.host a = s.host a := by
  rw [State.host, State.host, h]

theorem OthersKept.of_lists {a : Nat} {s t : State} (hi : t.ifaces = s.ifaces) (hh : t.hosts = s.hosts) :
    OthersKept a s t :=
  fun b _ => ⟨State.iface_congr hi b, State.host_congr hh b⟩

/-- A completion reports to the running agent alone and touches no host (60 R200.1). -/
theorem Ends.othersKept {op : Byte} {e : ErrCode} {rs : List (Fin 6 × Nat)} {evs : List Event} {s t : State}
    (h : Ends op e rs evs s t) : OthersKept s.turn s t := by
  obtain ⟨⟨_, _, _, _, _, hhosts, _⟩, _, ⟨hother, _⟩, _⟩ := h
  exact fun b hb => ⟨hother b hb, State.host_congr hhosts b⟩

theorem exec_othersKept {i : Instr} {s t : State} (h : exec i s = .next t) : OthersKept s.turn s t := by
  obtain ⟨_, ⟨_, rfl⟩ | ⟨_, ⟨e, v, evs, rs, hv, nd, rfl⟩ | ⟨r, rfl⟩ | ⟨r, rfl⟩⟩⟩ := exec_cases h
  · exact (finishCommand_ends (opcode i) .deviceAbsent s).othersKept
  · exact (hv.ends (op := opcode i) (e := e) nd).othersKept
  · exact .of_lists rfl rfl
  · exact .of_lists rfl rfl

/-- A start clears the valid bits of its own agent, whichever lock it takes (10 R22, 20 R59). -/
theorem startCommand_othersKept (a : Nat) (w : Word) (s : State) : OthersKept a s (startCommand a w s) := by
  cases ho : overlapFault a w s with
  | true =>
    rw [startCommand, ho]
    exact .of_lists rfl rfl
  | false =>
    rw [startCommand_eq ho]
    exact fun _ hb => ⟨State.iface_setIface_other hb _ _, rfl⟩

theorem hostMove_othersKept (a : Nat) (s : State) : OthersKept a s (hostMove a s) := by
  cases hostMove_moves a s with
  | held ht => exact .of_lists (congrArg State.ifaces ht) (congrArg State.hosts ht)
  | started w p _ ht =>
    intro b hb
    obtain ⟨hi, hh⟩ := startCommand_othersKept a w (s.setProgram a p) b hb
    rw [ht]
    exact ⟨hi, hh.trans (State.host_setHost_other hb _ _)⟩
  | own ifs hs ho ht => exact fun b hb => ht ▸ ⟨ho.ifacesOther b hb, ho.hostsOther b hb⟩
  | fault ifs hs ho r ht => exact fun b hb => ht ▸ ⟨ho.ifacesOther b hb, ho.hostsOther b hb⟩

/-- Each move of an agent's turn changes that agent's interface and host side at most (20 R57, 60 R212). -/
theorem step_othersKept {s t : State} {a : Nat} {rest : List Turn} (hs : s.schedule = .agent a :: rest)
    (h : step s = .next t) : OthersKept a s t := by
  cases step_moves h with
  | idle hnil _ => simp [hs] at hnil
  | skip _ rest' _ ht => exact ht ▸ .of_lists rfl rfl
  | finish a' _ _ rest' hs' _ _ _ ht =>
    obtain ⟨rfl, rfl⟩ : a = a' ∧ rest = rest' := by simpa [hs] using hs'
    exact exec_othersKept (s := (s.withSchedule rest).withTurn a) ht
  | illegal a' w rest' hs' _ _ _ ht =>
    obtain ⟨rfl, rfl⟩ : a = a' ∧ rest = rest' := by simpa [hs] using hs'
    exact ht ▸ (finishCommand_ends (opField w) _ ((s.withSchedule rest).withTurn a)).othersKept
  | host a' rest' hs' _ _ ht =>
    obtain ⟨rfl, rfl⟩ : a = a' ∧ rest = rest' := by simpa [hs] using hs'
    exact ht ▸ hostMove_othersKept a (s.withSchedule rest)
  | collapse _ hs' _ => simp [hs] at hs'
  | construct _ hs' _ => simp [hs] at hs'

/-- Before construction has ended an agent's turn is used up and nothing else (60 R212; log entry 26). -/
theorem step_notStarted {s : State} {a : Nat} {rest : List Turn} (hf : s.fault = none) (hr : s.refused = none)
    (hst : s.started = false) (hs : s.schedule = .agent a :: rest) : step s = .next (s.withSchedule rest) := by
  rw [step_eq hf hr]
  simp [nextMove, hs, hst, State.withSchedule]

/-- Settles O13: every move of an agent's turn is its own, and there is none before construction has ended. -/
theorem agentsKeepTheirInterfaces : Obligations.AgentsKeepTheirInterfaces :=
  ⟨fun _ _ _ _ hs h => step_othersKept hs h,
    fun s _ _ hf hr hc hcf hs => step_notStarted hf hr (by rw [State.started, hc, hcf]; rfl) hs⟩

/-! ### Operands out of range -/

/-- A ready block whose command's body only rejects its operand ends it with that code alone (60 R204, R206). -/
theorem exec_rejects {i : Instr} {s : State} {e : ErrCode} (hs : Ready s) (hb : bodyOf i s = .completes e s) :
    ∃ t, exec i s = .next t ∧ Ends (opcode i) e [] [] s t ∧ Untouched s t :=
  exec_results (rs := []) hs hb (by simp)

/-- Settles O25: each of the three bodies checks its operand before anything else. -/
theorem outOfRangeIndexRejected : Obligations.OutOfRangeIndexRejected := by
  intro s hs
  refine ⟨fun h => ?_, fun h => ?_, fun h => ?_⟩
  · exact exec_rejects (i := .plan) hs (if_pos h)
  · exact exec_rejects (i := .postdivSet) hs (dif_neg (Nat.not_lt.mpr h))
  · exact exec_rejects (i := .gpdivSet) hs (if_pos h)

end Sys2Proof.Machine

/-! PROOFS. Construction: its three outcomes and its refusal (70 R221, 60 R203), and what every step lets stand
(70 R222, 10 R35). -/

namespace Sys2Proof.Machine

/-! ### Construction -/

/-- A scheduled construction is the whole step of an unmarked block (70 R221). -/
theorem step_construct {s : State} {rest : List Turn} (hf : s.fault = none) (hr : s.refused = none)
    (hs : s.schedule = .construct :: rest) : step s = .next (construct (s.withSchedule rest)) := by
  rw [step_eq hf hr, nextMove, hs]
  rfl

theorem State.started_iff {s : State} : s.started = true ↔ s.constructed = true ∨ s.constructFailed = true :=
  Bool.or_eq_true_iff

/-- Construction that has ended, in success or in failure, is not repeated (log entry 25). -/
theorem construct_of_started {s : State} (h : s.started = true) : construct s = s := by
  rw [construct, if_pos h]

/-- An ill-formed configuration is refused before any draw (60 R203). -/
theorem construct_of_illFormed {s : State} (h : s.started = false) (hw : s.cfg.wellFormed = false) :
    construct s = s.markRefused .illFormedConfiguration := by
  simp [construct, h, hw]

/-- The state with its listed outcomes of construction replaced. -/
def State.withConstructDraws (ds : List ConstructDraw) (s : State) : State :=
  { s with env := { s.env with construct := ds } }

/-- The outcome listed first decides a construction, and is used up (70 R221; log entry 4). -/
theorem construct_of_listed {s : State} {d : ConstructDraw} {ds : List ConstructDraw} (h : s.started = false)
    (hw : s.cfg.wellFormed = true) (hd : s.env.construct = d :: ds) :
    construct s = constructAs d (s.withConstructDraws ds) := by
  simp [construct, h, hw, State.drawConstruct, hd, State.withConstructDraws]

/-- No outcome touches the bank, the configuration, the schedule, the hosts or the environment (70 R221, R222). -/
theorem constructAs_keeps (d : ConstructDraw) (s : State) :
    (∀ off, (constructAs d s).stored off = s.stored off) ∧ (constructAs d s).cfg = s.cfg ∧
    (constructAs d s).schedule = s.schedule ∧ (constructAs d s).hosts = s.hosts ∧ (constructAs d s).env = s.env := by
  cases d <;> exact ⟨fun _ => rfl, rfl, rfl, rfl, rfl⟩

/-- A successful construction leaves every interface as at reset (10 R42). -/
theorem constructedFrom_iface (s : State) (a : Nat) : (constructedFrom s).iface a = Iface.reset := rfl

/-- A failure reports to agent 1, marks itself and changes nothing else (log entries 16, 25). -/
theorem failConstruction_outcome (e : ErrCode) (s : State) :
    (s.failConstruction e).iface 1 = { s.iface 1 with err := e.code } ∧
    (∀ b, b ≠ 1 → (s.failConstruction e).iface b = s.iface b) ∧
    s.failConstruction e = { s with ifaces := (s.failConstruction e).ifaces, constructFailed := true } :=
  ⟨(State.iface_setErr 1 e s 1).trans (if_pos rfl), fun b hb => (State.iface_setErr 1 e s b).trans (if_neg hb), rfl⟩

/-- Settles O15: the turn is `construct`, which finds construction ended, refuses, or follows its draw. -/
theorem constructionOutcomes : Obligations.ConstructionOutcomes := by
  intro s rest hf hr hs
  rw [step_construct hf hr hs]
  have hst (hc : s.constructed = false) (hcf : s.constructFailed = false) :
      (s.withSchedule rest).started = false := Bool.or_eq_false_iff.mpr ⟨hc, hcf⟩
  refine ⟨fun h => ?_, fun hc hcf hw => ?_, fun hc hcf hw d ds hd => ?_⟩
  · rw [construct_of_started (s := s.withSchedule rest) (State.started_iff.mpr h)]
    rfl
  · rw [construct_of_illFormed (hst hc hcf) hw]
    rfl
  · rw [construct_of_listed (hst hc hcf) hw hd]
    obtain ⟨hstored, hcfg, hsched, hhosts, henv⟩ := constructAs_keeps d ((s.withSchedule rest).withConstructDraws ds)
    refine ⟨_, rfl, hstored, hcfg, hsched, hhosts, henv, ?_, ?_, ?_⟩
    · rintro rfl
      refine ⟨rfl, rfl, rfl, rfl, rfl, rfl, rfl, rfl, rfl, rfl, rfl, rfl, fun a => ?_⟩
      rw [constructAs, constructedFrom_iface]
      exact ⟨rfl, rfl, rfl, by decide⟩
    · rintro rfl
      exact failConstruction_outcome .allocationFailure ((s.withSchedule rest).withConstructDraws ds)
    · rintro rfl
      exact failConstruction_outcome .deviceAbsent ((s.withSchedule rest).withConstructDraws ds)

/-! ### What every step lets stand -/

/-- The configuration and construction stand, and the history is only appended to (10 R35, 70 R222). -/
structure Stands (s t : State) : Prop where
  cfg : t.cfg = s.cfg
  constructed : t.constructed = s.constructed
  constructFailed : t.constructFailed = s.constructFailed
  history : ∃ l, t.history = s.history ++ l

/-- The same four fields, so the same standing. -/
theorem Stands.of_eq {s t : State} (hc : t.cfg = s.cfg) (hd : t.constructed = s.constructed)
    (hf : t.constructFailed = s.constructFailed) (hh : t.history = s.history) : Stands s t :=
  ⟨hc, hd, hf, [], by rw [hh, List.append_nil]⟩

theorem Ends.stands {op : Byte} {e : ErrCode} {rs : List (Fin 6 × Nat)} {evs : List Event} {s t : State}
    (h : Ends op e rs evs s t) : Stands s t := by
  obtain ⟨⟨_, _, ⟨hc, hcf⟩, _, hcfg, _⟩, _, _, hhist⟩ := h
  exact ⟨hcfg, hc, hcf, _, hhist⟩

theorem exec_stands {i : Instr} {s t : State} (h : exec i s = .next t) : Stands s t := by
  obtain ⟨_, ⟨_, rfl⟩ | ⟨_, ⟨e, v, evs, rs, hv, nd, rfl⟩ | ⟨r, rfl⟩ | ⟨r, rfl⟩⟩⟩ := exec_cases h
  · exact (finishCommand_ends (opcode i) .deviceAbsent s).stands
  · exact (hv.ends (op := opcode i) (e := e) nd).stands
  · exact .of_eq rfl rfl rfl rfl
  · exact .of_eq rfl rfl rfl rfl

theorem startCommand_stands (a : Nat) (w : Word) (s : State) : Stands s (startCommand a w s) := by
  cases ho : overlapFault a w s with
  | true =>
    rw [startCommand, if_pos ho]
    exact .of_eq rfl rfl rfl rfl
  | false =>
    rw [startCommand_eq ho]
    exact ⟨rfl, rfl, rfl, _, rfl⟩

theorem hostMove_stands (a : Nat) (s : State) : Stands s (hostMove a s) := by
  cases hostMove_moves a s with
  | held ht => rw [ht]; exact .of_eq rfl rfl rfl rfl
  | started w p _ ht => rw [ht]; exact { startCommand_stands a w (s.setProgram a p) with }
  | own ifs hs _ ht => rw [ht]; exact .of_eq rfl rfl rfl rfl
  | fault ifs hs _ r ht => rw [ht]; exact .of_eq rfl rfl rfl rfl

theorem powerCollapse_stands (s : State) : Stands s (powerCollapse s) := by
  by_cases h : s.inProgress = []
  · rw [powerCollapse_of_idle h]
    exact ⟨rfl, rfl, rfl, _, rfl⟩
  · rw [powerCollapse_of_busy h]
    exact .of_eq rfl rfl rfl rfl

theorem construct_cfg (s : State) : (construct s).cfg = s.cfg := by
  rcases construct_cases s with ⟨_, e⟩ | ⟨_, ⟨_, e⟩ | ⟨env, e | e | e⟩⟩ <;> rw [e] <;> rfl

/-- Construction's own fields move, and a history is dropped, only while construction has not ended (70 R221). -/
theorem step_stands {s t : State} (h : step s = .next t) : Stands s t ∨ s.started = false ∧ t.cfg = s.cfg := by
  cases step_moves h with
  | idle _ ht => exact .inl (ht ▸ .of_eq rfl rfl rfl rfl)
  | skip _ rest _ ht => exact .inl (ht ▸ .of_eq rfl rfl rfl rfl)
  | finish a _ _ rest _ _ _ _ ht => exact .inl { exec_stands (s := (s.withSchedule rest).withTurn a) ht with }
  | illegal a w rest _ _ _ _ ht =>
    exact .inl (ht ▸ { (finishCommand_ends (opField w) _ ((s.withSchedule rest).withTurn a)).stands with })
  | host a rest _ _ _ ht => exact .inl (ht ▸ { hostMove_stands a (s.withSchedule rest) with })
  | collapse rest _ ht => exact .inl (ht ▸ { powerCollapse_stands (s.withSchedule rest) with })
  | construct rest _ ht =>
    subst ht
    cases hst : s.started with
    | true =>
      rw [construct_of_started (s := s.withSchedule rest) hst]
      exact .inl (.of_eq rfl rfl rfl rfl)
    | false => exact .inr ⟨rfl, construct_cfg (s.withSchedule rest)⟩

/-- Settles O18: past construction every step lets all four stand, and before it the configuration. -/
theorem configurationAndHistoryStand : Obligations.ConfigurationAndHistoryStand := by
  intro s t h
  rcases step_stands h with hk | ⟨hst, hcfg⟩
  · exact ⟨hk.cfg, fun hc => ⟨hk.constructed.trans hc, hk.history⟩,
      fun hc hcf => ⟨hk.constructed.trans hc, hk.constructFailed.trans hcf⟩⟩
  · obtain ⟨hc', hcf'⟩ := Bool.or_eq_false_iff.mp hst
    exact ⟨hcfg, fun hc => by simp [hc'] at hc, fun _ hcf => by simp [hcf'] at hcf⟩

end Sys2Proof.Machine
